-- ==== Sys2Proof/Word.lean ====
section
/-! DEFINITION. The words of the TIJ Frame Codec: every wire and token element is an 8-bit byte
(00_scope R9, R12), and a byte sequence lists its oldest byte first (00_scope R13). -/

namespace Sys2Proof

/-- A byte: an unsigned integer 0 to 255 (00_scope R12). -/
abbrev Byte := BitVec 8

/-- `Bytes` of 00_scope R13: a finite sequence, offset 0 the first byte received or sent. -/
abbrev Bytes := List Byte

end Sys2Proof
end

