-- ==== Sys2Proof/Machine/Operands.lean ====
section
/-! DEFINITION. Named constants, byte order, byte sequences, the checksum function and the wire frame
layouts: every operand form of the spec, below the level of state. -/

namespace Sys2Proof

/-! ### The named bytes of the wire format (00_scope R10). Log 16: their values are unaudited. -/

/-- ESC, the marker byte. -/
def ESC : Byte := 0x1B
/-- STX, the kind of a request frame. -/
def STX : Byte := 0x02
/-- ETX, the end of a footer. -/
def ETX : Byte := 0x03
/-- ACK, the kind of a success response. -/
def ACK : Byte := 0x06
/-- NAK, the kind of a failure response. -/
def NAK : Byte := 0x15

/-- The length of the shortest response frame (30_encoding R71, 42_rx_reassembler R144). -/
def minFrame : Nat := 8
/-- The least offset a footer may start at (42_rx_reassembler R146). -/
def footerFrom : Nat := 5

/-! ### The opcodes (30_encoding R81) -/

/-- RESET. -/
def opReset : Byte := 0x01
/-- CK_COMPUTE. -/
def opCkCompute : Byte := 0x08
/-- CK_VERIFY. -/
def opCkVerify : Byte := 0x09
/-- TX_BUILD. -/
def opTxBuild : Byte := 0x10
/-- RX_FEED. -/
def opRxFeed : Byte := 0x20
/-- RX_FLUSH. -/
def opRxFlush : Byte := 0x21
/-- RX_DISARM. -/
def opRxDisarm : Byte := 0x22
/-- REG_READ. -/
def opRegRead : Byte := 0x30
/-- REG_WRITE. -/
def opRegWrite : Byte := 0x31

/-- Every opcode the block performs (30_encoding R81); any other byte 0 is reserved (R84). -/
def opcodes : Bytes :=
  [opReset, opCkCompute, opCkVerify, opTxBuild, opRxFeed, opRxFlush, opRxDisarm, opRegRead, opRegWrite]

/-! ### The register addresses (10_state R39) -/

/-- CTRL. -/
def addrCtrl : Byte := 0x00
/-- STAT. -/
def addrStat : Byte := 0x01
/-- EXPECT. -/
def addrExpect : Byte := 0x02
/-- RXLVL_HI. -/
def addrRxlvlHi : Byte := 0x03
/-- RXLVL_LO. -/
def addrRxlvlLo : Byte := 0x04

/-! ### Byte order (00_scope R14, 20_memory R54): the most significant byte first -/

/-- `n[15:8]`. -/
def hi8 (n : Nat) : Byte := BitVec.ofNat 8 (n / 256)
/-- `n[7:0]`. -/
def lo8 (n : Nat) : Byte := BitVec.ofNat 8 n
/-- `be16(n)`, for `n` below 2^16. -/
def be16 (n : Nat) : Bytes := [hi8 n, lo8 n]
/-- `be24(n)`, for `n` below 2^24. -/
def be24 (n : Nat) : Bytes := [BitVec.ofNat 8 (n / 65536), hi8 n, lo8 n]
/-- `u16(h, l)`. -/
def u16 (h l : Byte) : Nat := h.toNat * 256 + l.toNat
/-- `u24(a, b, c)`. -/
def u24 (a b c : Byte) : Nat := a.toNat * 65536 + b.toNat * 256 + c.toNat

/-! ### Byte sequences (00_scope R13) -/

/-- `s[i]`; the rules read it only below the sequence's length. -/
def byteAt (s : Bytes) (i : Nat) : Byte := s.getD i 0
/-- `s[a..b]`, the inclusive slice, empty when `b < a`. -/
def slice (s : Bytes) (a b : Nat) : Bytes := (s.drop a).take (b + 1 - a)

/-! ### The checksum (40_checksum R120) -/

/-- The sum of a sequence's bytes as an integer, before any reduction (00_scope R14). -/
def byteSum : Bytes → Nat
  | [] => 0
  | b :: s => b.toNat + byteSum s

/-- `sum8(s)` of 00_scope R14: the sum of all bytes mod 256. -/
def sum8 (s : Bytes) : Byte := BitVec.ofNat 8 (byteSum s)

/-- `ck(s) = (0x100 - sum8(s)) mod 256` (40_checksum R120). -/
def ck (s : Bytes) : Byte := BitVec.ofNat 8 (0x100 - (sum8 s).toNat)

/-- `verify(f)` of 40_checksum R120: false on the empty sequence, else whether the last byte is the
checksum of the bytes before it. -/
def verify (f : Bytes) : Bool :=
  match f.getLast? with
  | none => false
  | some k => ck f.dropLast == k

/-! ### Wire frames -/

/-- The bytes `x` closed by the footer and by the checksum of everything before it. -/
def sealed (x : Bytes) : Bytes := x ++ [ESC, ETX] ++ [ck (x ++ [ESC, ETX])]

/-- The request frame of 30_encoding R70: no byte of it is stuffed (R74). -/
def requestFrame (m c : Byte) (p : Bytes) : Bytes := sealed ([ESC, STX, m, c] ++ p)

/-- The response frame of 30_encoding R71, of kind `t`. -/
def responseFrame (t m st c : Byte) (d : Bytes) : Bytes := sealed ([ESC, t, m, st, c] ++ d)

/-- Offset of the first pair `[ESC, ETX]` in a sequence. -/
def findPair : Bytes → Option Nat
  | a :: b :: s => if a = ESC ∧ b = ETX then some 0 else (findPair (b :: s)).map (· + 1)
  | _ => none

/-- Whether a sequence contains no pair `[ESC, ETX]` (30_encoding R71's condition on a response's data;
R73 says what a response that violates it meets). -/
def pairFree (d : Bytes) : Bool := (findPair d).isNone

/-- The least offset `i >= 5` where the footer pair starts (42_rx_reassembler R146). -/
def findFooter (b : Bytes) : Option Nat := (findPair (b.drop footerFrom)).map (· + footerFrom)

/-- A footer pair: `[ESC, ETX]` starts at offset `i`. -/
def PairAt (b : Bytes) (i : Nat) : Prop := b[i]? = some ESC ∧ b[i + 1]? = some ETX

/-- The header check of 42_rx_reassembler R145: ESC, then ACK or NAK. -/
def headerGood (b : Bytes) : Bool :=
  byteAt b 0 == ESC && (byteAt b 1 == ACK || byteAt b 1 == NAK)

end Sys2Proof
end

