-- ==== Sys2Proof/Syntax.lean ====
section
/-! DEFINITION. The instructions: one constructor for each row of the spec's opcode table. -/

namespace Sys2Proof

/-- The rows of the opcode table. Nine command tokens (30_encoding R81), the reserved row
(30_encoding R84) and the three wire frame kinds (30_encoding R70, R71, R75). -/
inductive Instr where
  /-- RESET, 43_control R170. -/
  | reset
  /-- CK_COMPUTE, 40_checksum R121. -/
  | ckCompute (bytes : Bytes)
  /-- CK_VERIFY, 40_checksum R122. -/
  | ckVerify (frame : Bytes)
  /-- TX_BUILD, 41_tx_framer R130: machine number, command id, payload. -/
  | txBuild (m c : Byte) (payload : Bytes)
  /-- RX_FEED, 42_rx_reassembler R142. -/
  | rxFeed (chunk : Bytes)
  /-- RX_FLUSH, 42_rx_reassembler R153. -/
  | rxFlush
  /-- RX_DISARM, 42_rx_reassembler R154. -/
  | rxDisarm
  /-- REG_READ, 43_control R174. -/
  | regRead (addr : Byte)
  /-- REG_WRITE, 43_control R176 and R177. -/
  | regWrite (addr value : Byte)
  /-- The reserved row: a token whose byte 0 is no opcode, or the empty token; 43_control R172. -/
  | reservedOpcode (token : Bytes)
  /-- FRAME_REQUEST, 30_encoding R70: a wire frame of kind STX. -/
  | frameRequest (m c : Byte) (payload : Bytes)
  /-- FRAME_RESPONSE_ACK, 30_encoding R71: machine number, status, command id, data. -/
  | frameResponseAck (m st c : Byte) (data : Bytes)
  /-- FRAME_RESPONSE_NAK, 30_encoding R71 and 42_rx_reassembler R158. -/
  | frameResponseNak (m st c : Byte) (data : Bytes)
  deriving DecidableEq, Repr

/-- Where an instruction's bytes are met: as a command token on CMD (30_encoding R80), or as a frame on
the transport's wire (30_encoding R70, R71). -/
inductive Port where
  /-- The command port. -/
  | cmd
  /-- The transport's wire. -/
  | wire
  deriving DecidableEq, Repr

/-- The port of each row of the opcode table. -/
def Instr.port : Instr → Port
  | .reset => .cmd
  | .ckCompute _ => .cmd
  | .ckVerify _ => .cmd
  | .txBuild _ _ _ => .cmd
  | .rxFeed _ => .cmd
  | .rxFlush => .cmd
  | .rxDisarm => .cmd
  | .regRead _ => .cmd
  | .regWrite _ _ => .cmd
  | .reservedOpcode _ => .cmd
  | .frameRequest _ _ _ => .wire
  | .frameResponseAck _ _ _ _ => .wire
  | .frameResponseNak _ _ _ _ => .wire

end Sys2Proof
end

