-- ==== Sys2Proof/WellFormed.lean ====
section
/-! DEFINITION. Which terms of `Instr` an encoding exists for: the operand ranges of 30_encoding R82
and the token set of the reserved row (R84). -/

namespace Sys2Proof

/-- The longest operand of a TL token: `n` is 16 bits (30_encoding R82). -/
def maxTL : Nat := 65535
/-- The longest payload of a TX token: `n` is 24 bits (30_encoding R82). -/
def maxTX : Nat := 16777215

/-- Whether a token belongs to the reserved row: empty, or byte 0 is no opcode (30_encoding R84). -/
def isReserved : Bytes → Bool
  | [] => true
  | op :: _ => !opcodes.contains op

/-- The check of one instruction. A wire frame must fit the one command that carries it: a request's
payload a TX token (30_encoding R82), a whole response one RX_FEED. Longer operands: log 20. -/
def Instr.wf : Instr → Bool
  | .reset => true
  | .ckCompute bytes => decide (bytes.length ≤ maxTL)
  | .ckVerify frame => decide (frame.length ≤ maxTL)
  | .txBuild _ _ payload => decide (payload.length ≤ maxTX)
  | .rxFeed chunk => decide (chunk.length ≤ maxTL)
  | .rxFlush => true
  | .rxDisarm => true
  | .regRead _ => true
  | .regWrite _ _ => true
  | .reservedOpcode token => isReserved token
  | .frameRequest _ _ payload => decide (payload.length ≤ maxTX)
  | .frameResponseAck _ _ _ data => decide (data.length + 8 ≤ maxTL)
  | .frameResponseNak _ _ _ data => decide (data.length + 8 ≤ maxTL)

end Sys2Proof
end

