-- ==== Sys2Proof/Decode.lean ====
section
/-! DEFINITION. The decoder, total on any bytes and rejecting by name, the encoder, and the layout of
a word of the opcode table. -/

namespace Sys2Proof

/-! ### Decoding a command token (30_encoding R80 to R86) -/

/-- Why bytes are no instruction. -/
inductive Reject where
  /-- A token with a defined opcode and a length other than its required length (30_encoding R83). -/
  | badLength
  /-- Bytes offered as a wire frame that have neither layout of 30_encoding R70 and R71. -/
  | notAWireFrame
  /-- A wire frame longer than the one command token that would carry it allows (30_encoding R82). -/
  | frameTooLong
  deriving DecidableEq, Repr

/-- Format T0: the opcode alone. `rest` is the token after its opcode. -/
def decodeT0 (i : Instr) (rest : Bytes) : Except Reject Instr :=
  if rest.isEmpty then .ok i else .error .badLength

/-- Format TL: a big-endian 16-bit length, then that many bytes. -/
def decodeTL (mk : Bytes → Instr) (rest : Bytes) : Except Reject Instr :=
  match rest with
  | nH :: nL :: bytes => if bytes.length = u16 nH nL then .ok (mk bytes) else .error .badLength
  | _ => .error .badLength

/-- Format TX: machine number, command id, a big-endian 24-bit length, then that many bytes. -/
def decodeTX (rest : Bytes) : Except Reject Instr :=
  match rest with
  | m :: c :: n2 :: n1 :: n0 :: p =>
    if p.length = u24 n2 n1 n0 then .ok (.txBuild m c p) else .error .badLength
  | _ => .error .badLength

/-- Format TA: one address byte. -/
def decodeTA (rest : Bytes) : Except Reject Instr :=
  match rest with
  | [addr] => .ok (.regRead addr)
  | _ => .error .badLength

/-- Format TAV: an address byte and a value byte. -/
def decodeTAV (rest : Bytes) : Except Reject Instr :=
  match rest with
  | [addr, value] => .ok (.regWrite addr value)
  | _ => .error .badLength

/-- The instruction of a command token: the opcode map of 30_encoding R81 over the formats of R82, the
length check of R83, and the reserved row of R84 for every other token. -/
def decodeToken (token : Bytes) : Except Reject Instr :=
  match token with
  | [] => .ok (.reservedOpcode [])
  | op :: rest =>
    if op = opReset then decodeT0 .reset rest
    else if op = opCkCompute then decodeTL .ckCompute rest
    else if op = opCkVerify then decodeTL .ckVerify rest
    else if op = opTxBuild then decodeTX rest
    else if op = opRxFeed then decodeTL .rxFeed rest
    else if op = opRxFlush then decodeT0 .rxFlush rest
    else if op = opRxDisarm then decodeT0 .rxDisarm rest
    else if op = opRegRead then decodeTA rest
    else if op = opRegWrite then decodeTAV rest
    else .ok (.reservedOpcode (op :: rest))

/-! ### Decoding a wire frame (30_encoding R70, R71) -/

/-- The instruction of a whole wire frame: the frame must equal, byte for byte, the frame its own
fields build, checksum included. A response whose data holds the footer pair is read by position: its
restriction in R71 is about what a receiver can find (R73), not about the layout. Log 7. -/
def decodeFrame (f : Bytes) : Except Reject Instr :=
  let p := slice f 4 (f.length - 4)
  let d := slice f 5 (f.length - 4)
  if f = requestFrame (byteAt f 2) (byteAt f 3) p then
    if p.length ≤ maxTX then .ok (.frameRequest (byteAt f 2) (byteAt f 3) p) else .error .frameTooLong
  else if f = responseFrame ACK (byteAt f 2) (byteAt f 3) (byteAt f 4) d then
    if d.length + 8 ≤ maxTL then .ok (.frameResponseAck (byteAt f 2) (byteAt f 3) (byteAt f 4) d)
    else .error .frameTooLong
  else if f = responseFrame NAK (byteAt f 2) (byteAt f 3) (byteAt f 4) d then
    if d.length + 8 ≤ maxTL then .ok (.frameResponseNak (byteAt f 2) (byteAt f 3) (byteAt f 4) d)
    else .error .frameTooLong
  else .error .notAWireFrame

/-- The decoder of either port. -/
def decode : Port → Bytes → Except Reject Instr
  | .cmd, t => decodeToken t
  | .wire, f => decodeFrame f

/-! ### Encoding -/

/-- The bytes of an instruction: the token column of 30_encoding R95, the reserved token as it stands,
and the wire layouts of R70 and R71. -/
def encode : Instr → Bytes
  | .reset => [opReset]
  | .ckCompute bytes => opCkCompute :: be16 bytes.length ++ bytes
  | .ckVerify frame => opCkVerify :: be16 frame.length ++ frame
  | .txBuild m c payload => [opTxBuild, m, c] ++ be24 payload.length ++ payload
  | .rxFeed chunk => opRxFeed :: be16 chunk.length ++ chunk
  | .rxFlush => [opRxFlush]
  | .rxDisarm => [opRxDisarm]
  | .regRead addr => [opRegRead, addr]
  | .regWrite addr value => [opRegWrite, addr, value]
  | .reservedOpcode token => token
  | .frameRequest m c payload => requestFrame m c payload
  | .frameResponseAck m st c data => responseFrame ACK m st c data
  | .frameResponseNak m st c data => responseFrame NAK m st c data

/-! ### The required length of a token (30_encoding R82, R86) -/

/-- The required length of a token with a defined opcode, found from byte 0 and the length field.
`none`: the opcode is reserved, or the token ends before its length field does. -/
def requiredLength : Bytes → Option Nat
  | [] => none
  | op :: rest =>
    if op = opReset ∨ op = opRxFlush ∨ op = opRxDisarm then some 1
    else if op = opCkCompute ∨ op = opCkVerify ∨ op = opRxFeed then
      match rest with
      | nH :: nL :: _ => some (3 + u16 nH nL)
      | _ => none
    else if op = opTxBuild then
      match rest with
      | _ :: _ :: n2 :: n1 :: n0 :: _ => some (6 + u24 n2 n1 n0)
      | _ => none
    else if op = opRegRead then some 2
    else if op = opRegWrite then some 3
    else none

/-! ### The words of the opcode table (log 13, log 14) -/

/-- `k` bytes of a number, its least significant byte first: the table's numbering of a token's bits. -/
def wordBytes : Nat → Nat → Bytes
  | 0, _ => []
  | k + 1, w => BitVec.ofNat 8 w :: wordBytes k (w / 256)

/-- `t` followed by zero bytes up to length `k`. -/
def padTo (k : Nat) (t : Bytes) : Bytes := t ++ List.replicate (k - t.length) 0

/-- How many bytes a token of this opcode has before its variable part (30_encoding R82); 1 for a
reserved opcode. -/
def fixedLength (op : Byte) : Nat :=
  if op = opTxBuild then 6
  else if op = opCkCompute ∨ op = opCkVerify ∨ op = opRxFeed then 3
  else if op = opRegRead then 2
  else if op = opRegWrite then 3
  else 1

/-- A token's given bytes followed by zero operands up to its required length. -/
def completeToken (t : Bytes) : Bytes :=
  let t' := padTo (fixedLength (byteAt t 0)) t
  match requiredLength t' with
  | some n => padTo n t'
  | none => t

/-- The bytes of the instruction whose table bits are `w`, and the port they are met on. A 16-bit word
that is the match of a wire row, ESC and the frame's kind, is laid out big-endian (the table's note: offsets 0 to 1), and is
closed by the footer and the checksum, which are not operands. Any other word is a token's bytes. -/
def tableWord (nbits w : Nat) : Port × Bytes :=
  if nbits = 16 ∧ w = u16 ESC STX then (.wire, sealed (be16 w ++ [0, 0]))
  else if nbits = 16 ∧ (w = u16 ESC ACK ∨ w = u16 ESC NAK) then (.wire, sealed (be16 w ++ [0, 0, 0]))
  else (.cmd, completeToken (wordBytes (nbits / 8) w))

/-- The instruction the decoder reads from a word of the opcode table. -/
def decodeTableWord (nbits w : Nat) : Option Instr :=
  (decode (tableWord nbits w).1 (tableWord nbits w).2).toOption

end Sys2Proof
end

