-- ==== Sys2Proof/Config.lean ====
section
/-! DEFINITION. What an implementation fixes, and the free values of the spec. Nothing here has a
value a proof can see: `opaque` constants have no body, so a theorem about the model holds for every
value they may take. -/

namespace Sys2Proof.Config

/-- Chooses `RX_BUF_BYTES` (00_scope R8, `OPEN`). Log 1. -/
opaque rxBufSelect : BitVec 16

/-- `RX_BUF_BYTES`, the capacity of RXBUF in bytes (00_scope R8). As `rxBufSelect` runs over its 65536
values this takes exactly the values 8 to 65535 that R8 allows. Log 1. -/
def rxBufBytes : Nat := min rxBufSelect.toNat 65527 + 8

/-- The free value of 70_reset_and_hazards R231: how many bytes of a frame the transport had accepted
when RST cut the TX_BUILD, drawn afresh at each draw. It is reduced below the frame's length where it
is used, so every length R231 allows can occur and no other. Log 8. -/
opaque rstCut : Nat → Nat

/-- The free order of 70_reset_and_hazards R230: whether a RST that meets a command which is not
emitting comes wholly before it (true) or wholly after it (false). Log 9. -/
opaque rstFirst : Nat → Bool

end Sys2Proof.Config
end

