-- ==== Sys2Proof/Machine/State.lean ====
section
/-! DEFINITION. The state of the block, its outcomes and its reset value. -/

namespace Sys2Proof.Machine

/-- What can stop a step besides a next state, as a fault. The block has no traps and no error state
(60_exceptions R200): no instruction's meaning faults. -/
inductive Fault where
  /-- Raised by a step that takes a `stalled` input whose command emits a frame: the transport never
  accepts its last byte, so the command never completes and the block accepts no further command
  (70_reset_and_hazards R250; 93 X11, `stuck`). Safe: the model stops where the block hangs. Log 12. -/
  | transportStall
  deriving DecidableEq, Repr

/-- Why a step refuses. No instruction's meaning refuses. -/
inductive Refusal where
  /-- Reserved by the host for an instruction without a meaning; no arm of this model answers it. Safe. -/
  | notModelled (mnemonic : String)
  /-- Raised by a step that takes a `frame` input whose bytes have neither layout of 30_encoding R70 and
  R71. Safe: such bytes reach the block inside RX_FEED tokens, which run. Log 6. -/
  | notAWireFrame
  /-- Raised by a step that takes a `frame` input no one command token can carry (30_encoding R82).
  Safe: its bytes reach the block in parts. Log 6. -/
  | frameTooLong
  deriving DecidableEq, Repr

/-- One input of the block, as the host and the transport offer it (10_state R46). -/
inductive Input where
  /-- A command token delivered whole on CMD (30_encoding R80). The transport accepts every byte the
  command emits (the fairness assumption of 70_reset_and_hazards R250). -/
  | token (t : Bytes)
  /-- A whole wire frame, carried by the one command that carries it: a request is sent, a response is
  fed. Log 5. -/
  | frame (f : Bytes)
  /-- RST between two commands (70_reset_and_hazards R230). -/
  | rst
  /-- A command token, and RST arriving while it is performed (70_reset_and_hazards R230, R231). -/
  | rstDuring (t : Bytes)
  /-- A command token, and a transport that never accepts the last byte it emits
  (70_reset_and_hazards R250). Log 12. -/
  | stalled (t : Bytes)
  deriving DecidableEq, Repr

/-- The state. `rxbuf`, `armed`, `expect` and `corrEn` are the block's whole architectural state
(10_state R30); `input`, `txout` and `resp` are its ports (10_state R46, log 2); `draws` is the model's
own (log 10). -/
structure State where
  /-- RXBUF (10_state R31): the bytes no evaluation has consumed, offset 0 oldest. -/
  rxbuf : Bytes
  /-- ARMED (10_state R32): a built request's response is outstanding. -/
  armed : Bool
  /-- EXPECT (10_state R33): the command id of the request most recently built with correlation on. -/
  expect : Byte
  /-- CORR_EN (10_state R34): the correlation enable. -/
  corrEn : Bool
  /-- CMD and RST: what has been offered and not yet taken, oldest first. -/
  input : List Input
  /-- TXOUT: every byte the transport has accepted, oldest first. -/
  txout : Bytes
  /-- RESP: every response token returned, oldest first. -/
  resp : List Bytes
  /-- How many free values have been drawn. -/
  draws : Nat
  deriving DecidableEq, Repr

/-- The block after reset or power-on (10_state R45, 70_reset_and_hazards R232), with nothing offered
and nothing yet sent (log 2, log 10). -/
def State.reset : State where
  rxbuf := []
  armed := false
  expect := 0x00
  corrEn := true
  input := []
  txout := []
  resp := []
  draws := 0

/-- A response token before it is laid out as bytes: one constructor for each line of 30_encoding R91
and R92. -/
inductive Response where
  /-- OK of RESET, TX_BUILD, RX_FLUSH, RX_DISARM, REG_WRITE. -/
  | ok
  /-- OK of CK_COMPUTE (the checksum), CK_VERIFY (1 or 0) and REG_READ (the value). -/
  | okByte (v : Byte)
  /-- ILLEGAL. -/
  | illegal
  /-- BUSY. -/
  | busy
  /-- FULL. -/
  | full
  /-- INCOMPLETE. -/
  | incomplete
  /-- READY: kind, machine number, status, command id, flags, data. -/
  | ready (t m st c flags : Byte) (d : Bytes)
  /-- INV_HEADER with the discarded bytes. -/
  | invHeader (x : Bytes)
  /-- INV_CHECKSUM with the rejected frame. -/
  | invChecksum (f : Bytes)
  /-- INV_MISMATCH with the rejected frame. -/
  | invMismatch (f : Bytes)
  /-- INV_UNSOLICITED with the rejected frame. -/
  | invUnsolicited (f : Bytes)
  deriving DecidableEq, Repr

/-- The outcome of one evaluation of the reassembler (42_rx_reassembler R141). -/
inductive Event where
  /-- No complete frame yet. -/
  | incomplete
  /-- A complete frame whose checksum verifies. -/
  | frame (x : Bytes)
  /-- A bad header; `x` is discarded. -/
  | invHeader (x : Bytes)
  /-- A frame boundary whose checksum fails. -/
  | invChecksum (x : Bytes)
  deriving DecidableEq, Repr

/-- The classes of RXBUF between commands (42_rx_reassembler R159). -/
inductive RxClass where
  /-- SHORT: fewer than 8 bytes. -/
  | short
  /-- OPEN: a good header, no complete footer and checksum. -/
  | waiting
  /-- PENDING: an evaluation would report an event other than INCOMPLETE. -/
  | pending
  deriving DecidableEq, Repr

end Sys2Proof.Machine
end

