-- ==== Sys2Proof/Machine/Flags.lean ====
section
/-! DEFINITION. Every flag and status byte the spec computes: STAT, CTRL and the READY flags byte,
with the device's status table. -/

namespace Sys2Proof.Machine

/-- `zext_8` of one bit (00_scope R12). -/
def bit8 (b : Bool) : Byte := if b then 0x01 else 0x00

/-- CTRL as it reads: bit 0 CORR_EN, bits 7:1 zero (10_state R40). -/
def ctrlByte (s : State) : Byte := bit8 s.corrEn

/-- RXNE: RXBUF is not empty (10_state R41). -/
def rxne (s : State) : Bool := decide (0 < s.rxbuf.length)

/-- STAT as it reads: bit 0 ARMED, bit 1 RXNE, bits 7:2 zero (10_state R41). -/
def statByte (s : State) : Byte := bit8 s.armed ||| (if rxne s then 0x02 else 0x00)

/-- The device's status codes with the source's glosses (30_encoding R102). -/
def statusTable : List (Byte × String) :=
  [(0x00, "success"), (0x01, "device error"), (0x0B, "too many QR sub-modules"),
   (0x0D, "serial-number index not found"), (0x0E, "too few fields"), (0x0F, "bad credentials"),
   (0x10, "unknown info name"), (0x11, "print already started"), (0x12, "print not started"),
   (0x13, "group mode"), (0x14, "print interval too small"), (0x15, "save failed"),
   (0x16, "dual-column nozzle selection"), (0x17, "fixed speed"), (0x18, "shift overlap"),
   (0x42, "buffer just full"), (0x43, "buffer still full"), (0xFD, "service expired"),
   (0xFE, "unlocked"), (0xFF, "locked")]

/-- Whether a status code is one of the table's (the set KNOWN of 42_rx_reassembler R142). -/
def isKnown (st : Byte) : Bool := (statusTable.map Prod.fst).contains st

/-- Whether a status code means success (30_encoding R103). -/
def isSuccess (st : Byte) : Bool := st == 0x00

/-- The READY flags byte: bit 0 OK, bit 1 KNOWN, bits 7:2 zero; the frame kind plays no part
(30_encoding R93). -/
def readyFlags (st : Byte) : Byte :=
  (if isSuccess st then 0x01 else 0x00) ||| (if isKnown st then 0x02 else 0x00)

end Sys2Proof.Machine
end

