-- ==== Sys2Proof/Machine/Ops.lean ====
section
/-! DEFINITION. The named operations over the state: responding, emitting, rejecting, resetting, the
register accesses, the transmit framer and the receive reassembler. -/

namespace Sys2Proof.Machine

/-! ### Response tokens (30_encoding R90 to R92) -/

/-- A status, the length of `x` and `x`: the layout of every INV response (30_encoding R92). -/
def counted (code : Byte) (x : Bytes) : Bytes := code :: be16 x.length ++ x

/-- The bytes of a response token (30_encoding R91, R92). -/
def Response.toBytes : Response → Bytes
  | .ok => [0x00]
  | .okByte v => [0x00, v]
  | .illegal => [0x01]
  | .busy => [0x02]
  | .full => [0x03]
  | .incomplete => [0x10]
  | .ready t m st c flags d => [0x11, t, m, st, c, flags] ++ be16 d.length ++ d
  | .invHeader x => counted 0x20 x
  | .invChecksum f => counted 0x21 f
  | .invMismatch f => counted 0x22 f
  | .invUnsolicited f => counted 0x23 f

/-- `respond(t)` of 00_scope R15: one response token, after every earlier one. -/
def respond (r : Response) (s : State) : State := { s with resp := s.resp ++ [r.toBytes] }

/-- `emit` of 00_scope R15 for the bytes of one frame in order (20_memory R60). -/
def emit (bs : Bytes) (s : State) : State := { s with txout := s.txout ++ bs }

/-! ### Errors and reset -/

/-- A command turned away: its error response, and nothing else (00_scope R16, 60_exceptions R200).
This is the block's whole "exception entry": no state is saved and there is no return (R207). -/
def turnAway (r : Response) (s : State) : State := respond r s

/-- Every state element to its reset value (10_state R45); what has left by the ports has left, and what
the host has still to deliver is the host's (log 11). -/
def resetElements (s : State) : State :=
  { s with rxbuf := [], armed := false, expect := 0x00, corrEn := true }

/-! ### Register accesses (43_control R174 to R177) -/

/-- `RegRead(a)`: the value, or none at a reserved address (43_control R174, R175). -/
def readReg (a : Byte) (s : State) : Option Byte :=
  if a = addrCtrl then some (ctrlByte s)
  else if a = addrStat then some (statByte s)
  else if a = addrExpect then some s.expect
  else if a = addrRxlvlHi then some (hi8 s.rxbuf.length)
  else if a = addrRxlvlLo then some (lo8 s.rxbuf.length)
  else none

/-- A write of CTRL (43_control R176): CORR_EN takes bit 0, and a 0 clears ARMED. -/
def writeCtrl (v : Byte) (s : State) : State :=
  { s with corrEn := v.getLsbD 0, armed := s.armed && v.getLsbD 0 }

/-- `RegWrite(a, v)`: only CTRL is writable (43_control R176, R177). -/
def writeReg (a v : Byte) (s : State) : Option State :=
  if a = addrCtrl then some (writeCtrl v s) else none

/-! ### The transmit framer (41_tx_framer R130) -/

/-- Whether a request is outstanding, so that TX_BUILD is BUSY. -/
def outstanding (s : State) : Bool := s.corrEn && s.armed

/-- The arming of 41_tx_framer R130: only while CORR_EN is 1. -/
def arm (c : Byte) (s : State) : State :=
  if s.corrEn then { s with armed := true, expect := c } else s

/-- TX_BUILD: BUSY, or the whole frame on TXOUT, the arming and OK. -/
def buildAndSend (m c : Byte) (p : Bytes) (s : State) : State :=
  if outstanding s then turnAway .busy s
  else respond .ok (arm c (emit (requestFrame m c p) s))

/-! ### The receive reassembler (42_rx_reassembler R142 to R152) -/

/-- `evaluate(B)` of 42_rx_reassembler R142: the event and what RXBUF becomes. -/
def evaluate (b : Bytes) : Event × Bytes :=
  if b.length < minFrame then (.incomplete, b)
  else if headerGood b = false then (.invHeader b, [])
  else
    match findFooter b with
    | none => (.incomplete, b)
    | some f =>
      if b.length ≤ f + 2 then (.incomplete, b)
      else if verify (b.take (f + 3)) then (.frame (b.take (f + 3)), b.drop (f + 3))
      else (.invChecksum (b.take (f + 3)), b.drop (f + 3))

/-- The READY response of a frame (42_rx_reassembler R149). -/
def readyOf (x : Bytes) : Response :=
  .ready (byteAt x 1) (byteAt x 2) (byteAt x 3) (byteAt x 4) (readyFlags (byteAt x 3))
    (slice x 5 (x.length - 4))

/-- ARMED cleared. -/
def disarm (s : State) : State := { s with armed := false }

/-- The correlation check of a verified frame (42_rx_reassembler R148) and its report (R149). -/
def deliver (x : Bytes) (s : State) : State :=
  if s.corrEn && !s.armed then respond (.invUnsolicited x) s
  else if s.corrEn && byteAt x 4 != s.expect then respond (.invMismatch x) (disarm s)
  else respond (readyOf x) (disarm s)

/-- The report of an evaluation's event, RXBUF already cut (42_rx_reassembler R142, R150). -/
def report (ev : Event) (s : State) : State :=
  match ev with
  | .incomplete => respond .incomplete s
  | .invHeader x => respond (.invHeader x) (disarm s)
  | .invChecksum x => respond (.invChecksum x) (disarm s)
  | .frame x => deliver x s

/-- RX_FEED in a block whose RXBUF holds `cap` bytes: FULL and nothing else (R143), or one evaluation of
the buffered bytes followed by the chunk (R142, R152). -/
def feed (cap : Nat) (chunk : Bytes) (s : State) : State :=
  if cap < s.rxbuf.length + chunk.length then turnAway .full s
  else report (evaluate (s.rxbuf ++ chunk)).1 { s with rxbuf := (evaluate (s.rxbuf ++ chunk)).2 }

/-- The class of a buffer (42_rx_reassembler R159). -/
def rxClass (b : Bytes) : RxClass :=
  if b.length < minFrame then .short
  else
    match (evaluate b).1 with
    | .incomplete => .waiting
    | _ => .pending

end Sys2Proof.Machine
end

