-- ==== Sys2Proof/Machine/Checksum.lean ====
section
/-! DEFINITION. The checksum unit's commands (40_checksum). -/

namespace Sys2Proof.Machine

/-- CK_COMPUTE (40_checksum R121). -/
def execCkCompute (bytes : Bytes) (s : State) : Host.Outcome State Fault Refusal :=
  .next (respond (.okByte (ck bytes)) s)

/-- CK_VERIFY (40_checksum R122). -/
def execCkVerify (frame : Bytes) (s : State) : Host.Outcome State Fault Refusal :=
  .next (respond (.okByte (bit8 (verify frame))) s)

end Sys2Proof.Machine
end

