-- ==== Sys2Proof/Machine/Control.lean ====
section
/-! DEFINITION. The control commands and the reserved row (43_control). -/

namespace Sys2Proof.Machine

/-- RESET (43_control R170). -/
def execReset (s : State) : Host.Outcome State Fault Refusal :=
  .next (respond .ok (resetElements s))

/-- REG_READ (43_control R174, R175). -/
def execRegRead (addr : Byte) (s : State) : Host.Outcome State Fault Refusal :=
  match readReg addr s with
  | some v => .next (respond (.okByte v) s)
  | none => .next (turnAway .illegal s)

/-- REG_WRITE (43_control R176, R177). -/
def execRegWrite (addr value : Byte) (s : State) : Host.Outcome State Fault Refusal :=
  match writeReg addr value s with
  | some s' => .next (respond .ok s')
  | none => .next (turnAway .illegal s)

/-- The reserved row: a token with a reserved opcode, or the empty token (43_control R172). -/
def execReservedOpcode (_token : Bytes) (s : State) : Host.Outcome State Fault Refusal :=
  .next (turnAway .illegal s)

end Sys2Proof.Machine
end

