-- ==== Sys2Proof/Machine/RxReassembler.lean ====
section
/-! DEFINITION. The receive reassembler's commands (42_rx_reassembler). -/

namespace Sys2Proof.Machine

/-- RX_FEED (42_rx_reassembler R142). -/
def execRxFeed (chunk : Bytes) (s : State) : Host.Outcome State Fault Refusal :=
  .next (feed Config.rxBufBytes chunk s)

/-- RX_FLUSH (42_rx_reassembler R153). -/
def execRxFlush (s : State) : Host.Outcome State Fault Refusal :=
  .next (respond .ok { s with rxbuf := [] })

/-- RX_DISARM (42_rx_reassembler R154). -/
def execRxDisarm (s : State) : Host.Outcome State Fault Refusal :=
  .next (respond .ok (disarm s))

end Sys2Proof.Machine
end

