-- ==== Sys2Proof/Machine/TxFramer.lean ====
section
/-! DEFINITION. The transmit framer's command (41_tx_framer). -/

namespace Sys2Proof.Machine

/-- TX_BUILD (41_tx_framer R130). RXBUF is never touched (R132). -/
def execTxBuild (m c : Byte) (payload : Bytes) (s : State) : Host.Outcome State Fault Refusal :=
  .next (buildAndSend m c payload s)

end Sys2Proof.Machine
end

