-- ==== Sys2Proof/Machine/Wire.lean ====
section
/-! DEFINITION. The wire frame rows, each carried in its own direction by the one command that carries
it: a request frame is what TX_BUILD emits, a response frame is what RX_FEED receives. Log 5. -/

namespace Sys2Proof.Machine

/-- FRAME_REQUEST (30_encoding R70): the frame is sent by the TX_BUILD of its fields. -/
def execFrameRequest (m c : Byte) (payload : Bytes) (s : State) : Host.Outcome State Fault Refusal :=
  .next (buildAndSend m c payload s)

/-- FRAME_RESPONSE_ACK (30_encoding R71): the whole frame arrives and is fed in one RX_FEED. -/
def execFrameResponseAck (m st c : Byte) (data : Bytes) (s : State) : Host.Outcome State Fault Refusal :=
  .next (feed Config.rxBufBytes (responseFrame ACK m st c data) s)

/-- FRAME_RESPONSE_NAK (30_encoding R71, 42_rx_reassembler R158): as an ACK frame, with kind NAK. -/
def execFrameResponseNak (m st c : Byte) (data : Bytes) (s : State) : Host.Outcome State Fault Refusal :=
  .next (feed Config.rxBufBytes (responseFrame NAK m st c data) s)

end Sys2Proof.Machine
end

