-- ==== Sys2Proof/Machine/Dispatch.lean ====
section
/-! DEFINITION. One arm per row of the opcode table, each one direct call of its meaning. -/

namespace Sys2Proof.Machine

def exec (i : Instr) (s : State) : Host.Outcome State Fault Refusal :=
  match i with
  | .reset => Sys2Proof.Machine.execReset s
  | .ckCompute bytes => Sys2Proof.Machine.execCkCompute bytes s
  | .ckVerify frame => Sys2Proof.Machine.execCkVerify frame s
  | .txBuild m c payload => Sys2Proof.Machine.execTxBuild m c payload s
  | .rxFeed chunk => Sys2Proof.Machine.execRxFeed chunk s
  | .rxFlush => Sys2Proof.Machine.execRxFlush s
  | .rxDisarm => Sys2Proof.Machine.execRxDisarm s
  | .regRead addr => Sys2Proof.Machine.execRegRead addr s
  | .regWrite addr value => Sys2Proof.Machine.execRegWrite addr value s
  | .reservedOpcode token => Sys2Proof.Machine.execReservedOpcode token s
  | .frameRequest m c payload => Sys2Proof.Machine.execFrameRequest m c payload s
  | .frameResponseAck m st c data => Sys2Proof.Machine.execFrameResponseAck m st c data s
  | .frameResponseNak m st c data => Sys2Proof.Machine.execFrameResponseNak m st c data s

end Sys2Proof.Machine
end

