-- ==== Sys2Proof/Machine/Inputs.lean ====
section
/-! DEFINITION. Taking one input: performing a token, carrying a wire frame, RST, RST during a
command, a stalled transport; and placing a word of the opcode table where the next step takes it. -/

namespace Sys2Proof.Machine

/-- One command token, performed to completion (20_memory R58). A token of the wrong length is answered
ILLEGAL, before every other check of its command (43_control R173, 60_exceptions R203). Log 15. -/
def performToken (t : Bytes) (s : State) : Host.Outcome State Fault Refusal :=
  match decode .cmd t with
  | .ok i => exec i s
  | .error _ => .next (turnAway .illegal s)

/-- One whole wire frame. Log 5, log 6. -/
def performFrame (f : Bytes) (s : State) : Host.Outcome State Fault Refusal :=
  match decode .wire f with
  | .ok i => exec i s
  | .error .frameTooLong => .refused .frameTooLong
  | .error _ => .refused .notAWireFrame

/-- The frame that performing a token would put on TXOUT; none when it emits nothing. -/
def emission (t : Bytes) (s : State) : Option Bytes :=
  match decode .cmd t with
  | .ok (.txBuild m c p) => if outstanding s then none else some (requestFrame m c p)
  | _ => none

/-- The state after one free value has been drawn. -/
def drawn (s : State) : State := { s with draws := s.draws + 1 }

/-- RST put after an outcome: the elements take their reset values. -/
def thenRst : Host.Outcome State Fault Refusal → Host.Outcome State Fault Refusal
  | .next s => .next (resetElements s)
  | .fault r => .fault r
  | .refused r => .refused r

/-- RST while a token is performed. A TX_BUILD that emits is cut: some proper part of its frame from
offset 0 on has left, no response is returned, and the elements take their reset values
(70_reset_and_hazards R231, log 8). Every other command is performed wholly before or wholly after
(70_reset_and_hazards R230, log 9). -/
def performCut (t : Bytes) (s : State) : Host.Outcome State Fault Refusal :=
  match emission t s with
  | some frame => .next (resetElements (emit (frame.take (Config.rstCut s.draws % frame.length)) (drawn s)))
  | none =>
    if Config.rstFirst s.draws then performToken t (resetElements (drawn s))
    else thenRst (performToken t (drawn s))

/-- A token with a transport that never accepts the last byte: a command that emits never completes
(70_reset_and_hazards R250, log 12); every other command does not need the transport. -/
def performStalled (t : Bytes) (s : State) : Host.Outcome State Fault Refusal :=
  match emission t s with
  | some _ => .fault .transportStall
  | none => performToken t s

/-- One input, already taken off the queue. -/
def takeInput (i : Input) (s : State) : Host.Outcome State Fault Refusal :=
  match i with
  | .token t => performToken t s
  | .frame f => performFrame f s
  | .rst => .next (resetElements s)
  | .rstDuring t => performCut t s
  | .stalled t => performStalled t s

/-- The block takes its oldest input, or waits when none is offered (20_memory R58, log 3). -/
def takeNext (s : State) : Host.Outcome State Fault Refusal :=
  match s.input with
  | [] => .next s
  | i :: rest => takeInput i { s with input := rest }

/-- The input that delivers a word of the opcode table. Log 4, log 13, log 14. -/
def inputOfWord (nbits w : Nat) : Input :=
  match tableWord nbits w with
  | (.cmd, t) => .token t
  | (.wire, f) => .frame f

end Sys2Proof.Machine
end

