-- ==== Sys2Proof/Machine/Step.lean ====
section
/-! DEFINITION. One step of the block: its oldest input, taken to completion. -/

namespace Sys2Proof.Machine

/-- One step: one input performed to completion (00_scope R16, 20_memory R58; log 3). -/
def step (s : State) : Host.Outcome State Fault Refusal := takeNext s

/-- `s` with the instruction of a table word offered before every other input, so that the very next
step takes it. Log 4. -/
def State.withFetchWord (s : State) (nbits w : Nat) : State :=
  { s with input := inputOfWord nbits w :: s.input }

end Sys2Proof.Machine
end

