-- ==== Sys2Proof/Machine/Pseudo.lean ====
section
/-! DEFINITION. The device's command ids and the pseudo-operations, which expand to commands and add no
behaviour (30_encoding R96, R100, R104). -/

namespace Sys2Proof.Machine

/-- The command ids the source names (30_encoding R100). -/
def idHandshake : Byte := 0x00
/-- Commit. -/
def idCommit : Byte := 0x01
/-- Start. -/
def idStart : Byte := 0x11
/-- Stop. -/
def idStop : Byte := 0x12
/-- Trigger print. -/
def idTrigger : Byte := 0x13
/-- Send information file. -/
def idSendInfo : Byte := 0x1C

/-- The pseudo-operations of 30_encoding R96. -/
inductive Pseudo where
  /-- HANDSHAKE m. -/
  | handshake (m : Byte)
  /-- COMMIT m. -/
  | commit (m : Byte)
  /-- START m. -/
  | start (m : Byte)
  /-- STOP m. -/
  | stop (m : Byte)
  /-- TRIGGER m. -/
  | trigger (m : Byte)
  /-- SEND_INFO m, W. -/
  | sendInfo (m : Byte) (w : Bytes)
  /-- RX_ABORT. -/
  | rxAbort
  /-- RX_DRAIN. -/
  | rxDrain
  deriving DecidableEq, Repr

/-- The payload of an information file: `be24(len(W)) ++ W` (30_encoding R104). -/
def infoPayload (w : Bytes) : Bytes := be24 w.length ++ w

/-- The expansion of a pseudo-operation (30_encoding R96). -/
def expand : Pseudo → List Instr
  | .handshake m => [.txBuild m idHandshake []]
  | .commit m => [.txBuild m idCommit []]
  | .start m => [.txBuild m idStart []]
  | .stop m => [.txBuild m idStop []]
  | .trigger m => [.txBuild m idTrigger []]
  | .sendInfo m w => [.txBuild m idSendInfo (infoPayload w)]
  | .rxAbort => [.rxFlush, .rxDisarm]
  | .rxDrain => [.rxFeed []]

end Sys2Proof.Machine
end

