-- ==== Sys2Proof/Machine/AsmLines.lean ====
section
/-! DEFINITION. The lines of the assembler as 30_encoding R95 and R96 write them, as relations that do
not use the reader of Machine/Assembler.lean: the texts of bytes, lists and addresses, the table of
lines and tokens, and the lines of the pseudo-operations. -/

namespace Sys2Proof.Machine

/-- A hex digit of value `n`, of either case (log 17). -/
def HexText (n : Nat) (c : Char) : Prop :=
  "0123456789ABCDEF".toList[n]? = some c ∨ "0123456789abcdef".toList[n]? = some c

/-- The decimal digit of `n`, for `n` below 10. -/
def decDigitText (n : Nat) : Char := "0123456789".toList.getD n '0'

/-- A byte in decimal, without leading zeros. -/
def decText (b : Byte) : List Char :=
  (if 100 ≤ b.toNat then [decDigitText (b.toNat / 100)] else []) ++
    (if 10 ≤ b.toNat then [decDigitText (b.toNat / 10 % 10)] else []) ++ [decDigitText (b.toNat % 10)]

/-- A byte literal: `0x` followed by two hex digits, or decimal 0 to 255. -/
def ByteText (b : Byte) (cs : List Char) : Prop :=
  (∃ h l, HexText (b.toNat / 16) h ∧ HexText (b.toNat % 16) l ∧ cs = ['0', 'x', h, l]) ∨ cs = decText b

/-- One or more byte literals, a comma and a blank between them. -/
inductive ItemsText : Bytes → List Char → Prop
  /-- The last literal. -/
  | one (b : Byte) (cs : List Char) : ByteText b cs → ItemsText [b] cs
  /-- A literal before others. -/
  | more (b : Byte) (bs : Bytes) (cs ts : List Char) :
    ByteText b cs → ItemsText bs ts → ItemsText (b :: bs) (cs ++ ',' :: ' ' :: ts)

/-- A byte list: in brackets, `[]` for the empty one. -/
def ListText (bs : Bytes) (cs : List Char) : Prop :=
  (bs = [] ∧ cs = ['[', ']']) ∨ ∃ ts, ItemsText bs ts ∧ cs = '[' :: (ts ++ [']'])

/-- A register address: a byte literal, or a register's name with its address of 10_state R39. -/
def AddrText (a : Byte) (cs : List Char) : Prop :=
  ByteText a cs ∨ (a, cs) ∈
    [((0x00 : Byte), "CTRL".toList), (0x01, "STAT".toList), (0x02, "EXPECT".toList),
      (0x03, "RXLVL_HI".toList), (0x04, "RXLVL_LO".toList)]

/-- The table of 30_encoding R95: a line, its instruction and its token. -/
inductive AsmRow : List Char → Instr → Bytes → Prop
  /-- RESET. -/
  | reset : AsmRow "RESET".toList .reset [0x01]
  /-- CK_COMPUTE. -/
  | ckCompute (bs : Bytes) (ts : List Char) : ListText bs ts →
    AsmRow ("CK_COMPUTE ".toList ++ ts) (.ckCompute bs) ([0x08] ++ be16 bs.length ++ bs)
  /-- CK_VERIFY. -/
  | ckVerify (bs : Bytes) (ts : List Char) : ListText bs ts →
    AsmRow ("CK_VERIFY ".toList ++ ts) (.ckVerify bs) ([0x09] ++ be16 bs.length ++ bs)
  /-- TX_BUILD. -/
  | txBuild (m c : Byte) (bs : Bytes) (ms cs ts : List Char) : ByteText m ms → ByteText c cs → ListText bs ts →
    AsmRow ("TX_BUILD ".toList ++ (ms ++ ',' :: ' ' :: (cs ++ ',' :: ' ' :: ts))) (.txBuild m c bs)
      ([0x10, m, c] ++ be24 bs.length ++ bs)
  /-- RX_FEED. -/
  | rxFeed (bs : Bytes) (ts : List Char) : ListText bs ts →
    AsmRow ("RX_FEED ".toList ++ ts) (.rxFeed bs) ([0x20] ++ be16 bs.length ++ bs)
  /-- RX_FLUSH. -/
  | rxFlush : AsmRow "RX_FLUSH".toList .rxFlush [0x21]
  /-- RX_DISARM. -/
  | rxDisarm : AsmRow "RX_DISARM".toList .rxDisarm [0x22]
  /-- REG_READ. -/
  | regRead (a : Byte) (cs : List Char) : AddrText a cs →
    AsmRow ("REG_READ ".toList ++ cs) (.regRead a) [0x30, a]
  /-- REG_WRITE. -/
  | regWrite (a v : Byte) (cs vs : List Char) : AddrText a cs → ByteText v vs →
    AsmRow ("REG_WRITE ".toList ++ (cs ++ ',' :: ' ' :: vs)) (.regWrite a v) [0x31, a, v]

/-- The lines of the pseudo-operations (30_encoding R96). -/
inductive PseudoRow : List Char → Pseudo → Prop
  /-- HANDSHAKE m. -/
  | handshake (m : Byte) (ms : List Char) : ByteText m ms → PseudoRow ("HANDSHAKE ".toList ++ ms) (.handshake m)
  /-- COMMIT m. -/
  | commit (m : Byte) (ms : List Char) : ByteText m ms → PseudoRow ("COMMIT ".toList ++ ms) (.commit m)
  /-- START m. -/
  | start (m : Byte) (ms : List Char) : ByteText m ms → PseudoRow ("START ".toList ++ ms) (.start m)
  /-- STOP m. -/
  | stop (m : Byte) (ms : List Char) : ByteText m ms → PseudoRow ("STOP ".toList ++ ms) (.stop m)
  /-- TRIGGER m. -/
  | trigger (m : Byte) (ms : List Char) : ByteText m ms → PseudoRow ("TRIGGER ".toList ++ ms) (.trigger m)
  /-- SEND_INFO m, W. -/
  | sendInfo (m : Byte) (w : Bytes) (ms ts : List Char) : ByteText m ms → ListText w ts →
    PseudoRow ("SEND_INFO ".toList ++ (ms ++ ',' :: ' ' :: ts)) (.sendInfo m w)
  /-- RX_ABORT. -/
  | rxAbort : PseudoRow "RX_ABORT".toList .rxAbort
  /-- RX_DRAIN. -/
  | rxDrain : PseudoRow "RX_DRAIN".toList .rxDrain

end Sys2Proof.Machine
end

