-- ==== Sys2Proof/Machine/Assembler.lean ====
section
/-! DEFINITION. The assembler's mnemonic syntax (30_encoding R95) and its pseudo-operations (R96): one
command per line, read from its characters. Log 17 names what R95 leaves open. -/

namespace Sys2Proof.Machine

/-- The lexemes of a line. -/
inductive Lexeme where
  /-- A mnemonic, a register name or a byte literal. -/
  | word (cs : List Char)
  /-- A comma. -/
  | comma
  /-- An opening bracket. -/
  | lbracket
  /-- A closing bracket. -/
  | rbracket
  deriving DecidableEq, Repr

/-- The word read so far, if any. -/
def endWord : List Char → List Lexeme
  | [] => []
  | cs => [.word cs]

/-- The lexemes of a line, `acc` the word being read. A semicolon starts a comment. -/
def lexLine : List Char → List Char → List Lexeme
  | acc, [] => endWord acc
  | acc, c :: cs =>
    if c = ';' then endWord acc
    else if c = ' ' ∨ c = '\t' then endWord acc ++ lexLine [] cs
    else if c = ',' then endWord acc ++ .comma :: lexLine [] cs
    else if c = '[' then endWord acc ++ .lbracket :: lexLine [] cs
    else if c = ']' then endWord acc ++ .rbracket :: lexLine [] cs
    else lexLine (acc ++ [c]) cs

/-- The value of a decimal digit. -/
def decDigit (c : Char) : Option Nat :=
  if 48 ≤ c.toNat ∧ c.toNat ≤ 57 then some (c.toNat - 48) else none

/-- The value of a hexadecimal digit of either case. -/
def hexDigit (c : Char) : Option Nat :=
  if 65 ≤ c.toNat ∧ c.toNat ≤ 70 then some (c.toNat - 55)
  else if 97 ≤ c.toNat ∧ c.toNat ≤ 102 then some (c.toNat - 87)
  else decDigit c

/-- A decimal numeral, `acc` the value read so far. -/
def decValue : Nat → List Char → Option Nat
  | acc, [] => some acc
  | acc, c :: cs => (decDigit c).bind fun d => decValue (acc * 10 + d) cs

/-- A byte literal: `0x` and two hex digits, or decimal 0 to 255 (30_encoding R95). -/
def byteLit (cs : List Char) : Option Byte :=
  match cs with
  | [] => none
  | ['0', 'x', h, l] => (hexDigit h).bind fun a => (hexDigit l).map fun b => BitVec.ofNat 8 (a * 16 + b)
  | _ => (decValue 0 cs).bind fun n => if n ≤ 255 then some (BitVec.ofNat 8 n) else none

/-- A register address: a byte literal or a register's name (30_encoding R95). -/
def address (cs : List Char) : Option Byte :=
  if cs = "CTRL".toList then some addrCtrl
  else if cs = "STAT".toList then some addrStat
  else if cs = "EXPECT".toList then some addrExpect
  else if cs = "RXLVL_HI".toList then some addrRxlvlHi
  else if cs = "RXLVL_LO".toList then some addrRxlvlLo
  else byteLit cs

/-- The bytes of a list after its opening bracket, up to the line's end; not empty. -/
def listTail : List Lexeme → Option Bytes
  | [.word w, .rbracket] => (byteLit w).map ([·])
  | .word w :: .comma :: rest => (byteLit w).bind fun b => (listTail rest).map (b :: ·)
  | _ => none

/-- A bracketed byte list that ends the line (30_encoding R95). -/
def byteList : List Lexeme → Option Bytes
  | [.lbracket, .rbracket] => some []
  | .lbracket :: rest => listTail rest
  | _ => none

/-- The instructions of a mnemonic and the lexemes after it, before the operand ranges are checked. -/
def parseOps (mn : List Char) (ops : List Lexeme) : Option (List Instr) :=
  match ops with
  | [] =>
    if mn = "RESET".toList then some [.reset]
    else if mn = "RX_FLUSH".toList then some [.rxFlush]
    else if mn = "RX_DISARM".toList then some [.rxDisarm]
    else if mn = "RX_ABORT".toList then some (expand .rxAbort)
    else if mn = "RX_DRAIN".toList then some (expand .rxDrain)
    else none
  | [.word a] =>
    if mn = "REG_READ".toList then (address a).map fun x => [.regRead x]
    else if mn = "HANDSHAKE".toList then (byteLit a).map fun m => expand (.handshake m)
    else if mn = "COMMIT".toList then (byteLit a).map fun m => expand (.commit m)
    else if mn = "START".toList then (byteLit a).map fun m => expand (.start m)
    else if mn = "STOP".toList then (byteLit a).map fun m => expand (.stop m)
    else if mn = "TRIGGER".toList then (byteLit a).map fun m => expand (.trigger m)
    else none
  | [.word a, .comma, .word v] =>
    if mn = "REG_WRITE".toList then
      (address a).bind fun x => (byteLit v).map fun y => [.regWrite x y]
    else none
  | .word a :: .comma :: .word b :: .comma :: rest =>
    if mn = "TX_BUILD".toList then
      (byteLit a).bind fun m => (byteLit b).bind fun c => (byteList rest).map fun p => [.txBuild m c p]
    else none
  | .word a :: .comma :: rest =>
    if mn = "SEND_INFO".toList then
      (byteLit a).bind fun m => (byteList rest).map fun w => expand (.sendInfo m w)
    else none
  | rest =>
    if mn = "CK_COMPUTE".toList then (byteList rest).map fun x => [.ckCompute x]
    else if mn = "CK_VERIFY".toList then (byteList rest).map fun x => [.ckVerify x]
    else if mn = "RX_FEED".toList then (byteList rest).map fun x => [.rxFeed x]
    else none

/-- The instructions of one line: none on a syntax error or an operand no token can hold, nothing on a
blank line. -/
def parseLine (line : List Char) : Option (List Instr) :=
  match lexLine [] line with
  | [] => some []
  | .word mn :: ops => (parseOps mn ops).bind fun is => if is.all Instr.wf then some is else none
  | _ => none

/-- The tokens of one line (30_encoding R95). -/
def assemble (line : List Char) : Option (List Bytes) := (parseLine line).map (·.map encode)

end Sys2Proof.Machine
end

