-- ==== Sys2Proof/Machine/HostView.lean ====
section
/-! DEFINITION. What a host reads from the block's responses, and the command sequences the spec gives
a host (60_exceptions R202, R214, R215; 70_reset_and_hazards R233). The block enforces none of it. -/

namespace Sys2Proof.Machine

/-- The source's error kinds that a response can stand for (60_exceptions R202). `TransportUnavailable`,
`Timeout` and `ValidationError` have no response of the block: they are the host's own. -/
inductive SourceError where
  /-- INV_HEADER or INV_CHECKSUM. -/
  | malformedFrame
  /-- INV_MISMATCH or INV_UNSOLICITED: the protocol error of the source's section 5. -/
  | protocolError
  /-- READY with the flag OK = 0. -/
  | deviceError
  /-- BUSY. -/
  | busy
  deriving DecidableEq, Repr

/-- The source's error kind of a response, by the table of 60_exceptions R202. -/
def sourceError : Response → Option SourceError
  | .invHeader _ => some .malformedFrame
  | .invChecksum _ => some .malformedFrame
  | .invMismatch _ => some .protocolError
  | .invUnsolicited _ => some .protocolError
  | .ready _ _ _ _ flags _ => if flags.getLsbD 0 then none else some .deviceError
  | .busy => some .busy
  | .ok => none
  | .okByte _ => none
  | .illegal => none
  | .full => none
  | .incomplete => none

/-- Whether a host takes a response as the success of its request: READY with OK = 1 and a kind other
than NAK (60_exceptions R215). -/
def hostSuccess : Response → Bool
  | .ready t _ _ _ flags _ => flags.getLsbD 0 && t != NAK
  | _ => false

/-- Connect, and every change of the connection's configuration (60_exceptions R214). -/
def onConnect : List Instr := [.reset]
/-- Connect, then run as the bare codec without correlation (70_reset_and_hazards R233). -/
def onConnectBare : List Instr := [.reset, .regWrite addrCtrl 0x00]
/-- Timeout without close (60_exceptions R214). -/
def onTimeout : List Instr := [.rxDisarm]
/-- Transport close or error while waiting (60_exceptions R214). -/
def onClose : List Instr := expand .rxAbort

end Sys2Proof.Machine
end

