-- ==== Sys2Proof/Safety.lean ====
section
/-! DEFINITION. What counts as a safe run, in the terms the statements use: the invariant of the state,
the response tokens the block may return, runs of several instructions, and inputs that cannot stop
the block. -/

namespace Sys2Proof.Machine

/-- The layouts of 30_encoding R92, on bytes: no other token is ever returned (R91). -/
def legalResponse : Bytes → Bool
  | [a] => a == 0x00 || a == 0x01 || a == 0x02 || a == 0x03 || a == 0x10
  | [a, _] => a == 0x00
  | 0x11 :: t :: _ :: _ :: _ :: flags :: h :: l :: d =>
    (t == ACK || t == NAK) && decide (flags.toNat ≤ 3) && decide (u16 h l = d.length)
  | a :: h :: l :: x =>
    (a == 0x20 || a == 0x21 || a == 0x22 || a == 0x23) && decide (u16 h l = x.length)
      && decide (minFrame ≤ x.length)
  | _ => false

/-- The invariant of every state the block reaches. -/
structure BlockInv (s : State) : Prop where
  /-- RXBUF never exceeds its capacity (10_state R31). -/
  capacity : s.rxbuf.length ≤ Config.rxBufBytes
  /-- CORR_EN = 0 implies ARMED = 0 (10_state R35). -/
  correlation : s.corrEn = false → s.armed = false
  /-- Only the tokens of 30_encoding R91 and R92 have been returned. -/
  responses : ∀ t ∈ s.resp, legalResponse t = true

/-- Several instructions performed in order, stopping at the first fault or refusal. -/
def execAll : List Instr → State → Host.Outcome State Fault Refusal
  | [], s => .next s
  | i :: is, s =>
    match exec i s with
    | .next t => execAll is t
    | .fault r => .fault r
    | .refused r => .refused r

/-- An input that cannot stop the block: a token with a transport that accepts, RST, RST during a token,
or a wire frame that decodes, so that it is one and one token can carry it (log 5, log 6). -/
def Input.fair : Input → Bool
  | .token _ => true
  | .frame f => (decode .wire f).toOption.isSome
  | .rst => true
  | .rstDuring _ => true
  | .stalled _ => false

/-! ### Terms of the statements -/

/-- The reset values of 10_state R45, with what the registers then read. -/
structure AtReset (s : State) : Prop where
  /-- RXBUF. -/
  rxbuf : s.rxbuf = []
  /-- ARMED. -/
  armed : s.armed = false
  /-- EXPECT. -/
  expect : s.expect = 0x00
  /-- CORR_EN. -/
  corrEn : s.corrEn = true
  /-- CTRL. -/
  ctrl : readReg 0x00 s = some 0x01
  /-- STAT. -/
  stat : readReg 0x01 s = some 0x00
  /-- The register EXPECT. -/
  expectReg : readReg 0x02 s = some 0x00
  /-- RXLVL_HI. -/
  rxlvlHi : readReg 0x03 s = some 0x00
  /-- RXLVL_LO. -/
  rxlvlLo : readReg 0x04 s = some 0x00

/-- In every state, the token is answered `[ILLEGAL]` and nothing else changes (30_encoding R83, R84). -/
def AnswersIllegal (t : Bytes) : Prop :=
  ∀ (s : State) (rest : List Input), s.input = .token t :: rest →
    step s = .next { s with input := rest, resp := s.resp ++ [[0x01]] }

/-- Format T0 of 30_encoding R82, with the length check of R83. -/
structure FormatT0 (op : Byte) (i : Instr) : Prop where
  /-- The token is the opcode alone. -/
  encoding : decode .cmd [op] = .ok i
  /-- A longer token is ILLEGAL. -/
  longer : ∀ b r, AnswersIllegal (op :: b :: r)

/-- Format TL of 30_encoding R82, with the length check of R83. -/
structure FormatTL (op : Byte) (mk : Bytes → Instr) : Prop where
  /-- A big-endian 16-bit length, then that many bytes. -/
  encoding : ∀ nH nL bytes, bytes.length = nH.toNat * 256 + nL.toNat →
    decode .cmd (op :: nH :: nL :: bytes) = .ok (mk bytes)
  /-- A token too short to hold its length field is ILLEGAL. -/
  noLength : AnswersIllegal [op] ∧ ∀ b, AnswersIllegal [op, b]
  /-- A token whose length is not `3 + n` is ILLEGAL. -/
  wrongLength : ∀ nH nL bytes, bytes.length ≠ nH.toNat * 256 + nL.toNat →
    AnswersIllegal (op :: nH :: nL :: bytes)

/-- Format TX of 30_encoding R82, with the length check of R83. -/
structure FormatTX (op : Byte) (mk : Byte → Byte → Bytes → Instr) : Prop where
  /-- Machine number, command id, a big-endian 24-bit length, then that many bytes. -/
  encoding : ∀ m c n2 n1 n0 p, p.length = n2.toNat * 65536 + n1.toNat * 256 + n0.toNat →
    decode .cmd (op :: m :: c :: n2 :: n1 :: n0 :: p) = .ok (mk m c p)
  /-- A token too short to hold its length field is ILLEGAL. -/
  noLength : ∀ r : Bytes, r.length < 5 → AnswersIllegal (op :: r)
  /-- A token whose length is not `6 + n` is ILLEGAL. -/
  wrongLength : ∀ m c n2 n1 n0 p, p.length ≠ n2.toNat * 65536 + n1.toNat * 256 + n0.toNat →
    AnswersIllegal (op :: m :: c :: n2 :: n1 :: n0 :: p)

/-- The header of 42_rx_reassembler R145: ESC, then ACK or NAK. -/
def GoodHeader (b : Bytes) : Prop := b[0]? = some ESC ∧ (b[1]? = some ACK ∨ b[1]? = some NAK)

/-- `f` is the least offset 5 or later where the footer pair starts (42_rx_reassembler R146). -/
def LeastFooter (b : Bytes) (f : Nat) : Prop :=
  5 ≤ f ∧ PairAt b f ∧ ∀ i, 5 ≤ i → i < f → ¬ PairAt b i

/-- The kinds of a response frame (30_encoding R75): ACK or NAK. -/
def ResponseKind (t : Byte) : Prop := t = ACK ∨ t = NAK

/-- The block will report a verified frame with command id `c` READY (42_rx_reassembler R148, R149). -/
def Awaits (s : State) (c : Byte) : Prop := s.corrEn = false ∨ (s.armed = true ∧ s.expect = c)

/-- The READY token of a frame's fields (30_encoding R92, R93). -/
def readyToken (t m st c : Byte) (d : Bytes) : Bytes :=
  [0x11, t, m, st, c, readyFlags st] ++ be16 d.length ++ d

end Sys2Proof.Machine
end

