-- ==== Sys2Proof/Certificates/Slice0/Obligations.lean ====
section
/-! DEFINITION. The statements. Each docstring names the rule of spec/ it formalises, or says that it
rests on the model's own choice and names the log entry. -/

open Sys2Proof Sys2Proof.Machine

/-! ### Reset -/

/-- 10_state R45: the state after the RESET command, after the RST input, and of the reset state
itself, with what the five registers then read. -/
def Obligations.ResetLeavesSpecValues : Prop :=
  AtReset State.reset ∧
  (∀ s : State, ∃ t, exec .reset s = .next t ∧ AtReset t) ∧
  ∀ (s : State) (rest : List Input), s.input = .rst :: rest → ∃ t, step s = .next t ∧ AtReset t

/-- 43_control R170: the token, the effect and the length error of RESET. -/
def Obligations.ResetCommand : Prop :=
  FormatT0 0x01 .reset ∧
  ∀ s : State, exec .reset s =
    .next { s with rxbuf := [], armed := false, expect := 0x00, corrEn := true, resp := s.resp ++ [[0x00]] }

/-- 43_control R171: RESET and RST leave the same elements; RESET also returns a response token, RST
returns none. -/
def Obligations.ResetAndRstAgree : Prop :=
  ∀ (s : State) (rest : List Input), ∃ t u,
    exec .reset { s with input := rest } = .next t ∧ step { s with input := .rst :: rest } = .next u ∧
    t.resp = s.resp ++ [[0x00]] ∧ u.resp = s.resp ∧ u = { t with resp := s.resp }

/-- 70_reset R230: between two commands RST resets and returns nothing; while a TX_BUILD emits it
resets and returns nothing; every other command is performed wholly before or wholly after it. -/
def Obligations.RstTakesEffectBetweenCommands : Prop :=
  (∀ (s : State) (rest : List Input), s.input = .rst :: rest →
    step s = .next { s with rxbuf := [], armed := false, expect := 0x00, corrEn := true, input := rest }) ∧
  ∀ (s : State) (t : Bytes) (rest : List Input), s.input = .rstDuring t :: rest →
    let s0 := { s with input := rest, draws := s.draws + 1 }
    (∀ m c p, decode .cmd t = .ok (.txBuild m c p) → ¬ (s.corrEn = true ∧ s.armed = true) →
      ∃ u, step s = .next u ∧ u.rxbuf = [] ∧ u.armed = false ∧ u.expect = 0x00 ∧ u.corrEn = true ∧
        u.resp = s.resp) ∧
    ((∀ m c p, decode .cmd t = .ok (.txBuild m c p) → s.corrEn = true ∧ s.armed = true) →
      (step s = performToken t { s0 with rxbuf := [], armed := false, expect := 0x00, corrEn := true } ∨
       ∃ u, performToken t s0 = .next u ∧
        step s = .next { u with rxbuf := [], armed := false, expect := 0x00, corrEn := true }))

/-- 70_reset R231: RST during a TX_BUILD leaves some proper part of the frame on TXOUT, from offset 0
on, returns no response token, and leaves the reset state. -/
def Obligations.RstDuringTxBuildCutsTheFrame : Prop :=
  ∀ (s : State) (m c : Byte) (p : Bytes) (rest : List Input), p.length ≤ 16777215 →
    ¬ (s.corrEn = true ∧ s.armed = true) →
    s.input = .rstDuring ([0x10, m, c] ++ be24 p.length ++ p) :: rest →
    ∃ k, k < (requestFrame m c p).length ∧
      step s = .next { s with
        rxbuf := [], armed := false, expect := 0x00, corrEn := true, input := rest,
        txout := s.txout ++ (requestFrame m c p).take k, draws := s.draws + 1 }

/-! ### The checksum unit -/

/-- 40_checksum R120: `ck` on integers, and `verify` on the empty and on every non-empty sequence. -/
def Obligations.ChecksumFunction : Prop :=
  (∀ s : Bytes, (ck s).toNat = (0x100 - byteSum s % 256) % 256) ∧
  verify [] = false ∧
  ∀ (x : Bytes) (k : Byte), verify (x ++ [k]) = true ↔ k.toNat = (0x100 - byteSum x % 256) % 256

/-- 40_checksum R121: the token, the result and the length error of CK_COMPUTE; no state changes. -/
def Obligations.CkComputeCommand : Prop :=
  FormatTL 0x08 .ckCompute ∧
  ∀ (bytes : Bytes) (s : State), exec (.ckCompute bytes) s =
    .next { s with resp := s.resp ++ [[0x00, BitVec.ofNat 8 (0x100 - byteSum bytes % 256)]] }

/-- 40_checksum R122: the token, the result and the length error of CK_VERIFY; no state changes. -/
def Obligations.CkVerifyCommand : Prop :=
  FormatTL 0x09 .ckVerify ∧
  (∀ s : State, exec (.ckVerify []) s = .next { s with resp := s.resp ++ [[0x00, 0x00]] }) ∧
  ∀ (x : Bytes) (k : Byte) (s : State), exec (.ckVerify (x ++ [k])) s =
    .next { s with resp := s.resp ++
      [[0x00, if k = BitVec.ofNat 8 (0x100 - byteSum x % 256) then 0x01 else 0x00]] }

/-- 40_checksum R123: a non-empty sequence verifies exactly when its bytes sum to 0 mod 256. -/
def Obligations.VerifyIffSumIsZero : Prop :=
  ∀ f : Bytes, f ≠ [] → (verify f = true ↔ sum8 f = 0)

/-- 40_checksum R124: every frame TX_BUILD emits verifies. -/
def Obligations.EmittedFramesVerify : Prop :=
  ∀ (m c : Byte) (p f : Bytes) (s t : State), exec (.txBuild m c p) s = .next t →
    t.txout = s.txout ++ f → f ≠ [] → verify f = true

/-- 40_checksum R125: what the checksum detects and what it does not. -/
def Obligations.ChecksumDetection : Prop :=
  (∀ (f : Bytes) (i : Nat) (b : Byte), i < f.length → f[i]? ≠ some b → verify f = true →
    verify (f.set i b) = false) ∧
  (∀ f g : Bytes, f.Perm g → verify f = verify g) ∧
  (∀ f g : Bytes, f ≠ [] → g ≠ [] → byteSum f % 256 = byteSum g % 256 → verify f = verify g) ∧
  ∀ x y : Bytes, x ++ y ≠ [] → verify (x ++ [0x00] ++ y) = verify (x ++ y)

/-! ### The transmit framer -/

/-- 41_tx_framer R130: the token, BUSY, the frame, the arming and the length error of TX_BUILD. -/
def Obligations.TxBuildCommand : Prop :=
  FormatTX 0x10 .txBuild ∧
  (∀ (m c : Byte) (p : Bytes) (s : State), s.corrEn = true → s.armed = true →
    exec (.txBuild m c p) s = .next { s with resp := s.resp ++ [[0x02]] }) ∧
  ∀ (m c : Byte) (p : Bytes) (s : State), ¬ (s.corrEn = true ∧ s.armed = true) →
    exec (.txBuild m c p) s = .next { s with
      txout := s.txout ++ ([0x1B, 0x02, m, c] ++ p ++ [0x1B, 0x03] ++
        [BitVec.ofNat 8 (0x100 - byteSum ([0x1B, 0x02, m, c] ++ p ++ [0x1B, 0x03]) % 256)])
      armed := if s.corrEn then true else s.armed
      expect := if s.corrEn then c else s.expect
      resp := s.resp ++ [[0x00]] }

/-- 41_tx_framer R131: the layout of the emitted frame. -/
def Obligations.EmittedFrameLayout : Prop :=
  ∀ (m c : Byte) (p : Bytes) (s : State), ¬ (s.corrEn = true ∧ s.armed = true) →
    ∃ t f k, exec (.txBuild m c p) s = .next t ∧ t.txout = s.txout ++ f ∧
      f.length = p.length + 7 ∧ f.take 4 = [0x1B, 0x02, m, c] ∧ (f.drop 4).take p.length = p ∧
      f.drop (p.length + 4) = [0x1B, 0x03, k] ∧ k = ck (f.take (p.length + 6)) ∧ sum8 f = 0

/-- 41_tx_framer R132: TX_BUILD neither changes nor reads RXBUF. -/
def Obligations.TxBuildIgnoresRxbuf : Prop :=
  ∀ (m c : Byte) (p b : Bytes) (s t : State), exec (.txBuild m c p) s = .next t →
    t.rxbuf = s.rxbuf ∧ exec (.txBuild m c p) { s with rxbuf := b } = .next { t with rxbuf := b }

/-- 20_memory R62: of two TX_BUILDs with correlation on and nothing outstanding the second is BUSY, and
the first request's correlation stands. -/
def Obligations.SecondRequestIsBusy : Prop :=
  ∀ (m c m' c' : Byte) (p p' : Bytes) (s : State), s.corrEn = true → s.armed = false →
    execAll [.txBuild m c p, .txBuild m' c' p'] s = .next { s with
      armed := true, expect := c, txout := s.txout ++ requestFrame m c p,
      resp := s.resp ++ [[0x00], [0x02]] }

/-! ### The receive reassembler -/

/-- 42_rx R143: a chunk that does not fit is FULL and changes nothing; a chunk that fits is put after
the buffered bytes, and the evaluation is that of the whole. -/
def Obligations.RxFeedCapacityAndAppend : Prop :=
  (∀ (chunk : Bytes) (s : State), Config.rxBufBytes < s.rxbuf.length + chunk.length →
    exec (.rxFeed chunk) s = .next { s with resp := s.resp ++ [[0x03]] }) ∧
  ∀ (chunk : Bytes) (s : State), s.rxbuf.length + chunk.length ≤ Config.rxBufBytes →
    exec (.rxFeed chunk) s = exec (.rxFeed []) { s with rxbuf := s.rxbuf ++ chunk }

/-- 42_rx R144: with fewer than 8 bytes the evaluation is INCOMPLETE whatever the bytes are. -/
def Obligations.RxFeedBelowMinimumLength : Prop :=
  ∀ (chunk : Bytes) (s : State), s.rxbuf.length + chunk.length ≤ Config.rxBufBytes →
    (s.rxbuf ++ chunk).length < 8 →
    exec (.rxFeed chunk) s = .next { s with rxbuf := s.rxbuf ++ chunk, resp := s.resp ++ [[0x10]] }

/-- 42_rx R145: with at least 8 bytes and a bad header, all bytes are discarded and returned. -/
def Obligations.RxFeedBadHeader : Prop :=
  ∀ (chunk : Bytes) (s : State), s.rxbuf.length + chunk.length ≤ Config.rxBufBytes →
    8 ≤ (s.rxbuf ++ chunk).length → ¬ GoodHeader (s.rxbuf ++ chunk) →
    exec (.rxFeed chunk) s = .next { s with
      rxbuf := [], armed := false,
      resp := s.resp ++ [0x20 :: be16 (s.rxbuf ++ chunk).length ++ (s.rxbuf ++ chunk)] }

/-- 42_rx R146 and R147: no footer, or a footer without its checksum byte, is INCOMPLETE; else the
candidate frame runs through the checksum byte of the first footer, a candidate that does not verify is
rejected, and RXBUF becomes the bytes after the candidate in either case. -/
def Obligations.RxFeedFooterAndChecksum : Prop :=
  ∀ (chunk : Bytes) (s : State), s.rxbuf.length + chunk.length ≤ Config.rxBufBytes →
    8 ≤ (s.rxbuf ++ chunk).length → GoodHeader (s.rxbuf ++ chunk) →
    let b := s.rxbuf ++ chunk
    ((∀ i, 5 ≤ i → ¬ PairAt b i) →
      exec (.rxFeed chunk) s = .next { s with rxbuf := b, resp := s.resp ++ [[0x10]] }) ∧
    ∀ f, LeastFooter b f →
      (b.length ≤ f + 2 →
        exec (.rxFeed chunk) s = .next { s with rxbuf := b, resp := s.resp ++ [[0x10]] }) ∧
      (f + 2 < b.length → verify (b.take (f + 3)) = false →
        exec (.rxFeed chunk) s = .next { s with
          rxbuf := b.drop (f + 3), armed := false,
          resp := s.resp ++ [0x21 :: be16 (f + 3) ++ b.take (f + 3)] }) ∧
      (f + 2 < b.length → verify (b.take (f + 3)) = true →
        evaluate b = (.frame (b.take (f + 3)), b.drop (f + 3)) ∧
        ∃ t, exec (.rxFeed chunk) s = .next t ∧ t.rxbuf = b.drop (f + 3))

/-- 42_rx R148 and R149: a verified frame is INV_UNSOLICITED, INV_MISMATCH or READY, with the fields
the READY token reports. -/
def Obligations.RxFeedCorrelatesAndReports : Prop :=
  ∀ (chunk x rest : Bytes) (f : Nat) (s : State), s.rxbuf.length + chunk.length ≤ Config.rxBufBytes →
    8 ≤ (s.rxbuf ++ chunk).length → GoodHeader (s.rxbuf ++ chunk) → LeastFooter (s.rxbuf ++ chunk) f →
    s.rxbuf ++ chunk = x ++ rest → x.length = f + 3 → verify x = true →
    (s.corrEn = true → s.armed = false →
      exec (.rxFeed chunk) s =
        .next { s with rxbuf := rest, resp := s.resp ++ [0x23 :: be16 x.length ++ x] }) ∧
    (s.corrEn = true → s.armed = true → x[4]? ≠ some s.expect →
      exec (.rxFeed chunk) s =
        .next { s with rxbuf := rest, armed := false, resp := s.resp ++ [0x22 :: be16 x.length ++ x] }) ∧
    (s.corrEn = false ∨ (s.armed = true ∧ x[4]? = some s.expect) →
      ∃ t m st c d k, x = [0x1B, t, m, st, c] ++ d ++ [0x1B, 0x03, k] ∧
        exec (.rxFeed chunk) s =
          .next { s with rxbuf := rest, armed := false, resp := s.resp ++ [readyToken t m st c d] })

/-- 30_encoding R93: the READY flags byte, over the twenty codes of R102. -/
def Obligations.ReadyFlagsByte : Prop :=
  ∀ st : Byte,
    ((readyFlags st).getLsbD 0 = true ↔ st = 0x00) ∧
    ((readyFlags st).getLsbD 1 = true ↔ st ∈ ([0, 1, 11, 13, 14, 15, 16, 17, 18, 19, 20, 21, 22, 23, 24,
      66, 67, 253, 254, 255] : List Byte)) ∧
    ∀ i, 2 ≤ i → (readyFlags st).getLsbD i = false

/-- 42_rx R150: every RX_FEED whose event is not INCOMPLETE leaves ARMED = 0; FULL, ILLEGAL and
INCOMPLETE leave it unchanged. -/
def Obligations.RxFeedDisarms : Prop :=
  FormatTL 0x20 .rxFeed ∧
  ∀ (chunk : Bytes) (s : State), ∃ t r, exec (.rxFeed chunk) s = .next t ∧ t.resp = s.resp ++ [r] ∧
    (r = [0x10] ∨ r = [0x03] → t.armed = s.armed) ∧ (r ≠ [0x10] → r ≠ [0x03] → t.armed = false)

/-- 42_rx R151: RXBUF after each outcome and the bytes returned. The returned frame and what RXBUF
keeps are together the buffered bytes and the chunk: no byte is lost, made or reordered. -/
def Obligations.RxFeedLosesNoByte : Prop :=
  ∀ (chunk : Bytes) (s : State), ∃ t r, exec (.rxFeed chunk) s = .next t ∧
    t.resp = s.resp ++ [Response.toBytes r] ∧
    match r with
    | .full => t.rxbuf = s.rxbuf
    | .incomplete => t.rxbuf = s.rxbuf ++ chunk
    | .invHeader x => t.rxbuf = [] ∧ x = s.rxbuf ++ chunk
    | .invChecksum x => x ++ t.rxbuf = s.rxbuf ++ chunk
    | .invMismatch x => x ++ t.rxbuf = s.rxbuf ++ chunk
    | .invUnsolicited x => x ++ t.rxbuf = s.rxbuf ++ chunk
    | .ready k m st c flags d =>
      responseFrame k m st c d ++ t.rxbuf = s.rxbuf ++ chunk ∧ flags = readyFlags st
    | _ => False

/-- 42_rx R142, state written: the receiving rows write RXBUF and ARMED only; EXPECT, CORR_EN, TXOUT,
the inputs still to come and the model's own counter are untouched. -/
def Obligations.ReceivingFrame : Prop :=
  ∀ (i : Instr) (s t : State),
    (∃ chunk, i = .rxFeed chunk) ∨ (∃ m st c d, i = .frameResponseAck m st c d) ∨
      (∃ m st c d, i = .frameResponseNak m st c d) →
    exec i s = .next t →
    t.expect = s.expect ∧ t.corrEn = s.corrEn ∧ t.txout = s.txout ∧ t.input = s.input ∧
      t.draws = s.draws ∧ ∃ r, t.resp = s.resp ++ [r]

/-- 42_rx R152: of two buffered frames one RX_FEED reports the first and carries the second over, and
an RX_FEED of nothing (RX_DRAIN) then delivers it. For every value of RX_BUF_BYTES, of which the
block's own is one. -/
def Obligations.OneFramePerFeedAndDrain : Prop :=
  (∀ (chunk : Bytes) (s : State), exec (.rxFeed chunk) s = .next (feed Config.rxBufBytes chunk s)) ∧
  ∀ (cap : Nat) (k1 m1 s1 c1 k2 m2 s2 c2 : Byte) (d1 d2 chunk : Bytes) (s : State),
    ResponseKind k1 → ResponseKind k2 → pairFree d1 = true → pairFree d2 = true → s.corrEn = false →
    s.rxbuf.length + chunk.length ≤ cap →
    s.rxbuf ++ chunk = responseFrame k1 m1 s1 c1 d1 ++ responseFrame k2 m2 s2 c2 d2 →
    feed cap chunk s = { s with
      rxbuf := responseFrame k2 m2 s2 c2 d2, armed := false,
      resp := s.resp ++ [readyToken k1 m1 s1 c1 d1] } ∧
    feed cap [] (feed cap chunk s) = { s with
      rxbuf := [], armed := false,
      resp := s.resp ++ [readyToken k1 m1 s1 c1 d1, readyToken k2 m2 s2 c2 d2] }

/-- 42_rx R155: chunking does not change a valid frame's outcome. The last chunk is not empty: R155
allows it to be, but by R142 an empty chunk after the whole frame answers INCOMPLETE (log 19). -/
def Obligations.ChunkingKeepsAValidFrame : Prop :=
  ∀ (k m st c : Byte) (d : Bytes) (chunks : List Bytes) (last : Bytes) (s : State),
    ResponseKind k → pairFree d = true → s.rxbuf = [] →
    (responseFrame k m st c d).length ≤ Config.rxBufBytes → last ≠ [] →
    (chunks ++ [last]).flatten = responseFrame k m st c d →
    ∃ t r, exec (.rxFeed (responseFrame k m st c d)) s = .next t ∧ t.resp = s.resp ++ [r] ∧
      t.rxbuf = [] ∧
      execAll ((chunks ++ [last]).map .rxFeed) s =
        .next { t with resp := s.resp ++ List.replicate chunks.length [0x10] ++ [r] }

/-- 42_rx R156: twenty bytes with a bad header are one INV_HEADER in one chunk, and two INV_HEADERs with
four bytes left when fed one by one. For every value of RX_BUF_BYTES that holds them, of which the
block's own may be one. -/
def Obligations.ChunkingChangesABadHeader : Prop :=
  (∀ (chunk : Bytes) (s : State), exec (.rxFeed chunk) s = .next (feed Config.rxBufBytes chunk s)) ∧
  ∀ (cap : Nat) (b : Byte) (s : State), b ≠ 0x1B → s.rxbuf = [] → 20 ≤ cap →
    let inv := fun n => 0x20 :: be16 n ++ List.replicate n b
    feed cap (List.replicate 20 b) s = { s with armed := false, resp := s.resp ++ [inv 20] } ∧
    (List.replicate 20 [b]).foldl (fun t chunk => feed cap chunk t) s = { s with
      rxbuf := List.replicate 4 b, armed := false,
      resp := s.resp ++ (List.replicate 7 [0x10] ++ [inv 8] ++ List.replicate 7 [0x10] ++ [inv 8] ++
        List.replicate 4 [0x10]) }

/-- 30_encoding R76: received bytes whose offset 1 is neither ACK nor NAK are rejected as a bad header
once 8 are buffered; an echoed request frame is such a case. -/
def Obligations.EchoedRequestIsRejected : Prop :=
  (∀ (chunk : Bytes) (s : State), s.rxbuf.length + chunk.length ≤ Config.rxBufBytes →
    8 ≤ (s.rxbuf ++ chunk).length → (s.rxbuf ++ chunk)[1]? ≠ some 0x06 →
    (s.rxbuf ++ chunk)[1]? ≠ some 0x15 →
    ∃ t, exec (.rxFeed chunk) s = .next t ∧ t.rxbuf = [] ∧
      t.resp = s.resp ++ [0x20 :: be16 (s.rxbuf ++ chunk).length ++ (s.rxbuf ++ chunk)]) ∧
  ∀ (m c : Byte) (p : Bytes) (s : State), p ≠ [] → s.rxbuf = [] → p.length + 7 ≤ Config.rxBufBytes →
    exec (.rxFeed (requestFrame m c p)) s = .next { s with
      armed := false, resp := s.resp ++ [0x20 :: be16 (p.length + 7) ++ requestFrame m c p] }

/-- 70_reset R240: a response whose data holds the footer pair is cut there. The bytes up to the one
after the pair are a false READY when that byte is their checksum, else INV_CHECKSUM, and the tail
stays in RXBUF. For every value of RX_BUF_BYTES, of which the block's own is one. -/
def Obligations.FooterPairInDataCutsTheFrame : Prop :=
  (∀ (chunk : Bytes) (s : State), exec (.rxFeed chunk) s = .next (feed Config.rxBufBytes chunk s)) ∧
  ∀ (cap : Nat) (k m st c : Byte) (d1 d2 : Bytes) (s : State), ResponseKind k → pairFree d1 = true →
    s.corrEn = false → s.rxbuf = [] →
    let f := responseFrame k m st c (d1 ++ [0x1B, 0x03] ++ d2)
    f.length ≤ cap →
    feed cap f s = { s with
      rxbuf := f.drop (d1.length + 8), armed := false,
      resp := s.resp ++ [if f[d1.length + 7]? = some (ck (f.take (d1.length + 7)))
        then readyToken k m st c d1
        else 0x21 :: be16 (d1.length + 8) ++ f.take (d1.length + 8)] }

/-- 70_reset R243: a buffer at its capacity with a good header and no footer refuses every non-empty
chunk, and an empty one is INCOMPLETE: nothing but RX_FLUSH or a reset empties it. -/
def Obligations.FullBufferStaysFull : Prop :=
  ∀ (chunk : Bytes) (s : State), s.rxbuf.length = Config.rxBufBytes → GoodHeader s.rxbuf →
    (∀ i, 5 ≤ i → ¬ PairAt s.rxbuf i) →
    exec (.rxFeed chunk) s =
      .next { s with resp := s.resp ++ [if chunk = [] then [0x10] else [0x03]] }

/-- 70_reset R244: after RX_DISARM a late response is INV_UNSOLICITED before the next TX_BUILD; after
one it is INV_MISMATCH for another command id and a false READY for the same. -/
def Obligations.LateResponseAfterDisarm : Prop :=
  ∀ (k m st c m' c' : Byte) (d p : Bytes) (s : State), ResponseKind k → pairFree d = true →
    s.corrEn = true → s.armed = true → s.expect = c → s.rxbuf = [] →
    let f := responseFrame k m st c d
    f.length ≤ Config.rxBufBytes →
    execAll [.rxDisarm, .rxFeed f] s =
      .next { s with armed := false, resp := s.resp ++ [[0x00], 0x23 :: be16 f.length ++ f] } ∧
    execAll [.rxDisarm, .txBuild m' c' p, .rxFeed f] s = .next { s with
      armed := false, expect := c', txout := s.txout ++ requestFrame m' c' p,
      resp := s.resp ++ [[0x00], [0x00],
        if c' = c then readyToken k m st c d else 0x22 :: be16 f.length ++ f] }

/-- 42_rx R159: the classes of RXBUF. SHORT is fewer than 8 bytes; PENDING is exactly when an empty
RX_FEED answers something other than INCOMPLETE; RX_FLUSH and RESET move to SHORT with no byte. -/
def Obligations.RxbufClasses : Prop :=
  ∀ s : State, s.rxbuf.length ≤ Config.rxBufBytes →
    (rxClass s.rxbuf = .short ↔ s.rxbuf.length < 8) ∧
    (rxClass s.rxbuf ≠ .pending ↔
      exec (.rxFeed []) s = .next { s with resp := s.resp ++ [[0x10]] }) ∧
    ∀ i, i = .rxFlush ∨ i = .reset →
      ∃ t, exec i s = .next t ∧ rxClass t.rxbuf = .short ∧ t.rxbuf = []

/-- 42_rx R153: the token, the effect and the length error of RX_FLUSH. -/
def Obligations.RxFlushCommand : Prop :=
  FormatT0 0x21 .rxFlush ∧
  ∀ s : State, exec .rxFlush s = .next { s with rxbuf := [], resp := s.resp ++ [[0x00]] }

/-- 42_rx R154: the token, the effect and the length error of RX_DISARM. -/
def Obligations.RxDisarmCommand : Prop :=
  FormatT0 0x22 .rxDisarm ∧
  ∀ s : State, exec .rxDisarm s = .next { s with armed := false, resp := s.resp ++ [[0x00]] }

/-! ### Control -/

/-- 43_control R174 and R175: the token, every register's value, the reserved addresses and the length
error of REG_READ; no state changes. -/
def Obligations.RegReadCommand : Prop :=
  (∀ a, decode .cmd [0x30, a] = .ok (.regRead a)) ∧
  AnswersIllegal [0x30] ∧ (∀ a b r, AnswersIllegal (0x30 :: a :: b :: r)) ∧
  ∀ s : State,
    let answers := fun (a : Byte) (t : Bytes) =>
      exec (.regRead a) s = .next { s with resp := s.resp ++ [t] }
    answers 0x00 [0x00, if s.corrEn then 0x01 else 0x00] ∧
    answers 0x01 [0x00, (if s.armed then 0x01 else 0x00) ||| (if s.rxbuf = [] then 0x00 else 0x02)] ∧
    answers 0x02 [0x00, s.expect] ∧
    answers 0x03 [0x00, BitVec.ofNat 8 (s.rxbuf.length / 256)] ∧
    answers 0x04 [0x00, BitVec.ofNat 8 s.rxbuf.length] ∧
    ∀ a : Byte, 0x05 ≤ a.toNat → answers a [0x01]

/-- 43_control R176 and R177: the token, the write of CTRL, the refused addresses and the length error
of REG_WRITE. -/
def Obligations.RegWriteCommand : Prop :=
  (∀ a v, decode .cmd [0x31, a, v] = .ok (.regWrite a v)) ∧
  AnswersIllegal [0x31] ∧ (∀ a, AnswersIllegal [0x31, a]) ∧
  (∀ a v b r, AnswersIllegal (0x31 :: a :: v :: b :: r)) ∧
  ∀ s : State,
    (∀ v : Byte, exec (.regWrite 0x00 v) s = .next { s with
      corrEn := v.getLsbD 0
      armed := if v.getLsbD 0 = false then false else s.armed
      resp := s.resp ++ [[0x00]] }) ∧
    ∀ a v : Byte, a ≠ 0x00 → exec (.regWrite a v) s = .next { s with resp := s.resp ++ [[0x01]] }

/-- 30_encoding R84 and 43_control R172: every token with a reserved byte 0, and the empty token,
decodes to the reserved row as it stands and is answered ILLEGAL with no effect. -/
def Obligations.ReservedTokensAreIllegal : Prop :=
  (∀ t : Bytes, (t = [] ∨ ∃ op r, t = op :: r ∧
      op ∉ ([0x01, 0x08, 0x09, 0x10, 0x20, 0x21, 0x22, 0x30, 0x31] : Bytes)) →
    decode .cmd t = .ok (.reservedOpcode t) ∧ AnswersIllegal t) ∧
  ∀ (t : Bytes) (s : State), exec (.reservedOpcode t) s = .next { s with resp := s.resp ++ [[0x01]] }

/-- 30_encoding R83: a token with a defined opcode and a length other than its format's is answered
ILLEGAL with no effect; one of the right length decodes to an instruction. -/
def Obligations.WrongLengthIsIllegal : Prop :=
  ∀ (op : Byte) (r : Bytes), op ∈ ([0x01, 0x08, 0x09, 0x10, 0x20, 0x21, 0x22, 0x30, 0x31] : Bytes) →
    (requiredLength (op :: r) ≠ some (op :: r).length →
      decode .cmd (op :: r) = .error .badLength ∧ AnswersIllegal (op :: r)) ∧
    (requiredLength (op :: r) = some (op :: r).length → ∃ i, decode .cmd (op :: r) = .ok i)

/-! ### Whole-machine rules -/

/-- 00_scope R16 and 60_exceptions R200: a command answered ILLEGAL, BUSY or FULL changes nothing. -/
def Obligations.RejectedCommandsChangeNothing : Prop :=
  ∀ (s s' : State) (t r : Bytes) (rest : List Input), s.input = .token t :: rest → step s = .next s' →
    s'.resp = s.resp ++ [r] → r = [0x01] ∨ r = [0x02] ∨ r = [0x03] →
    s' = { s with input := rest, resp := s.resp ++ [r] }

/-- 20_memory R58, 60_exceptions R204 and 30_encoding R91: a command token is answered by exactly one
response token, of a layout R92 lists, and only that token is taken from the port. -/
def Obligations.OneLegalResponsePerToken : Prop :=
  ∀ (s : State) (t : Bytes) (rest : List Input), s.rxbuf.length ≤ Config.rxBufBytes →
    s.input = .token t :: rest →
    ∃ s' r, step s = .next s' ∧ s'.input = rest ∧ s'.resp = s.resp ++ [r] ∧ legalResponse r = true

/-- 10_state R33: EXPECT is written only by TX_BUILD, with the command id it builds and only while
CORR_EN is 1, and by RESET. FRAME_REQUEST is carried by a TX_BUILD (the model's choice, log 5). -/
def Obligations.ExpectWriters : Prop :=
  ∀ (i : Instr) (s t : State), exec i s = .next t → t.expect ≠ s.expect →
    (i = .reset ∧ t.expect = 0x00) ∨
    ∃ m c p, (i = .txBuild m c p ∨ i = .frameRequest m c p) ∧ s.corrEn = true ∧ t.expect = c

/-- 10_state R34: CORR_EN is written only by REG_WRITE to CTRL and by RESET. -/
def Obligations.CorrEnWriters : Prop :=
  ∀ (i : Instr) (s t : State), exec i s = .next t → t.corrEn ≠ s.corrEn →
    (i = .reset ∧ t.corrEn = true) ∨ ∃ v, i = .regWrite 0x00 v ∧ t.corrEn = v.getLsbD 0

/-- 10_state R32: ARMED is set only by TX_BUILD, and only while CORR_EN is 1; it is cleared only by a
receiving row whose event is not INCOMPLETE, RX_DISARM, a write of 0 to CTRL.CORR_EN, and RESET. The
wire rows are the model's choice (log 5). -/
def Obligations.ArmedWriters : Prop :=
  ∀ (i : Instr) (s t : State), exec i s = .next t →
    (s.armed = false → t.armed = true →
      s.corrEn = true ∧ ∃ m c p, i = .txBuild m c p ∨ i = .frameRequest m c p) ∧
    (s.armed = true → t.armed = false →
      i = .reset ∨ i = .rxDisarm ∨ (∃ v : Byte, i = .regWrite 0x00 v ∧ v.getLsbD 0 = false) ∨
      (((∃ chunk, i = .rxFeed chunk) ∨ (∃ m st c d, i = .frameResponseAck m st c d) ∨
          ∃ m st c d, i = .frameResponseNak m st c d) ∧
        t.resp ≠ s.resp ++ [[0x10]]))

/-- 10_state R31 and 20_memory R50: RXBUF is written only by RX_FEED, RX_FLUSH and RESET, and TXOUT only
by TX_BUILD, which appends one whole request frame. The wire rows are the model's choice (log 5). -/
def Obligations.RxbufAndTxoutWriters : Prop :=
  ∀ (i : Instr) (s t : State), exec i s = .next t →
    (t.rxbuf ≠ s.rxbuf → i = .reset ∨ i = .rxFlush ∨ (∃ chunk, i = .rxFeed chunk) ∨
      (∃ m st c d, i = .frameResponseAck m st c d) ∨ ∃ m st c d, i = .frameResponseNak m st c d) ∧
    (t.txout ≠ s.txout → ∃ m c p, (i = .txBuild m c p ∨ i = .frameRequest m c p) ∧
      t.txout = s.txout ++ requestFrame m c p)

/-- 10_state R34: while CORR_EN is 0 the block is the bare codec: TX_BUILD is never BUSY and never arms,
and RX_FEED never answers INV_MISMATCH or INV_UNSOLICITED. -/
def Obligations.BareCodecWithoutCorrelation : Prop :=
  ∀ s : State, s.corrEn = false →
    (∀ m c p, exec (.txBuild m c p) s =
      .next { s with txout := s.txout ++ requestFrame m c p, resp := s.resp ++ [[0x00]] }) ∧
    ∀ chunk, ∃ t r, exec (.rxFeed chunk) s = .next t ∧ t.resp = s.resp ++ [r] ∧
      r.head? ≠ some 0x22 ∧ r.head? ≠ some 0x23

/-- The invariant holds at reset (10_state R31, R35, R45). -/
def Obligations.InvariantAtReset : Prop := BlockInv State.reset

/-- 10_state R31 and R35, 30_encoding R91 and R92: every step, whatever its input, keeps RXBUF within its
capacity, CORR_EN = 0 without ARMED, and RESP to the listed tokens. -/
def Obligations.StepKeepsInvariant : Prop :=
  ∀ s s' : State, BlockInv s → step s = .next s' → BlockInv s'

/-- 60_exceptions R200: a step on any input but a stalled transport and a wire frame that is undecodable
or too long answers a next state, and with no input the block waits. Such a frame is refused by the
model's choice (log 5, log 6); that the queue is the port's is the model's choice (log 2, log 3). -/
def Obligations.FairInputsNeverStop : Prop :=
  (∀ s : State, s.input = [] → step s = .next s) ∧
  ∀ (s : State) (i : Input) (rest : List Input), s.input = i :: rest → i.fair = true →
    ∃ t, step s = .next t ∧ t.input = rest

/-- 70_reset R250: on a transport that never accepts, a TX_BUILD that would emit leaves the block
stuck, and no other command needs the transport. That the hang is a fault is the model's choice
(log 12). -/
def Obligations.StalledTransportHangsTxBuild : Prop :=
  ∀ (s : State) (t : Bytes) (rest : List Input), s.input = .stalled t :: rest →
    (∀ m c p, decode .cmd t = .ok (.txBuild m c p) → ¬ (s.corrEn = true ∧ s.armed = true) →
      step s = .fault .transportStall) ∧
    ((∀ m c p, decode .cmd t = .ok (.txBuild m c p) → s.corrEn = true ∧ s.armed = true) →
      step s = step { s with input := .token t :: rest })

/-! ### Encodings -/

/-- Decoding an encoded well-formed instruction gives it back, for all thirteen rows and every operand
(30_encoding R70, R71, R81, R82, R84). -/
def Obligations.DecodeEncodeRoundTrip : Prop :=
  ∀ i : Instr, i.wf = true → decode i.port (encode i) = .ok i

/-- Bytes that decode are the encoding of the instruction they decode to, which is well formed: no two
byte sequences of a port mean one instruction, and a wire frame's checksum and markers are all checked
(30_encoding R70, R71, R83, R85). -/
def Obligations.EncodeDecodeRoundTrip : Prop :=
  ∀ (p : Port) (b : Bytes) (i : Instr), decode p b = .ok i → encode i = b ∧ i.port = p ∧ i.wf = true

/-- A step at whose head stands a token that decodes to `i` is exec of `i`, after the input has been
taken off the queue (20_memory R58, 30_encoding R80; the queue is the model's choice, log 2). That a whole
wire frame may stand there too, and then runs as exec of its row, is the model's choice (log 5): 10_state
R46 has no port for such an input. -/
def Obligations.StepRunsTheDecodedInstruction : Prop :=
  ∀ (s : State) (b : Bytes) (i : Instr) (rest : List Input),
    (s.input = .token b :: rest → decode .cmd b = .ok i → step s = exec i { s with input := rest }) ∧
    (s.input = .frame b :: rest → decode .wire b = .ok i → step s = exec i { s with input := rest })

/-- Tokens and frames written out from the spec decode to what they stand for: one of each format and
each wire kind (30_encoding R82, R70, R71; examples of R121, R130, R142, R176 and 95 RX2). -/
def Obligations.WrittenOutWordsDecode : Prop :=
  decode .cmd [0x21] = .ok .rxFlush ∧
  decode .cmd [0x08, 0x00, 0x06, 0x1B, 0x02, 0x77, 0x11, 0x1B, 0x03] =
    .ok (.ckCompute [0x1B, 0x02, 0x77, 0x11, 0x1B, 0x03]) ∧
  decode .cmd [0x10, 0x77, 0x1C, 0x00, 0x00, 0x02, 0x1B, 0x03] = .ok (.txBuild 0x77 0x1C [0x1B, 0x03]) ∧
  decode .cmd [0x30, 0x04] = .ok (.regRead 0x04) ∧
  decode .cmd [0x31, 0x00, 0xFE] = .ok (.regWrite 0x00 0xFE) ∧
  decode .cmd [0xFF, 0x12, 0x34] = .ok (.reservedOpcode [0xFF, 0x12, 0x34]) ∧
  decode .wire [0x1B, 0x02, 0x77, 0x11, 0x1B, 0x03, 0x3D] = .ok (.frameRequest 0x77 0x11 []) ∧
  decode .wire [0x1B, 0x06, 0x01, 0x00, 0x13, 0xAA, 0x55, 0x1B, 0x03, 0xAE] =
    .ok (.frameResponseAck 0x01 0x00 0x13 [0xAA, 0x55]) ∧
  decode .wire [0x1B, 0x15, 0x77, 0x01, 0x11, 0x1B, 0x03, 0x29] = .ok (.frameResponseNak 0x77 0x01 0x11 [])

/-- 30_encoding R72: every well-formed frame sums to 0 mod 256. -/
def Obligations.WireFramesSumToZero : Prop :=
  ∀ i : Instr, i.wf = true → i.port = .wire → sum8 (encode i) = 0

/-! ### The wire rows (the model's choice of their meaning: log 5) -/

/-- FRAME_REQUEST is sent by the TX_BUILD of its fields: BUSY with a request outstanding, else exactly
the frame's own bytes leave on TXOUT. The frame is 30_encoding R70's; that the row is carried by
TX_BUILD is the table's note and the model's choice (log 5). -/
def Obligations.FrameRequestIsSent : Prop :=
  ∀ (m c : Byte) (p : Bytes) (s : State),
    exec (.frameRequest m c p) s = .next (
      if s.corrEn = true ∧ s.armed = true then { s with resp := s.resp ++ [[0x02]] }
      else { s with
        txout := s.txout ++ encode (.frameRequest m c p)
        armed := if s.corrEn then true else s.armed
        expect := if s.corrEn then c else s.expect
        resp := s.resp ++ [[0x00]] })

/-- FRAME_RESPONSE_ACK and FRAME_RESPONSE_NAK are the RX_FEED of the whole frame. On an empty RXBUF: READY
with their own fields when awaited (42_rx R149, R158), INV_UNSOLICITED or INV_MISMATCH when not (R148),
FULL when too long (R143). That the row is carried by one RX_FEED is the model's choice (log 5). -/
def Obligations.FrameResponsesAreReported : Prop :=
  ∀ (i : Instr) (k m st c : Byte) (d : Bytes) (s : State),
    (i = .frameResponseAck m st c d ∧ k = 0x06) ∨ (i = .frameResponseNak m st c d ∧ k = 0x15) →
    exec i s = exec (.rxFeed (encode i)) s ∧
    (s.rxbuf = [] →
    (Config.rxBufBytes < d.length + 8 → exec i s = .next { s with resp := s.resp ++ [[0x03]] }) ∧
    (d.length + 8 ≤ Config.rxBufBytes → pairFree d = true →
      (Awaits s c →
        exec i s = .next { s with armed := false, resp := s.resp ++ [readyToken k m st c d] }) ∧
      (s.corrEn = true → s.armed = false →
        exec i s = .next { s with resp := s.resp ++ [0x23 :: be16 (d.length + 8) ++ encode i] }) ∧
      (s.corrEn = true → s.armed = true → s.expect ≠ c →
        exec i s = .next { s with
          armed := false, resp := s.resp ++ [0x22 :: be16 (d.length + 8) ++ encode i] })))

/-! ### Pseudo-operations and the assembler -/

/-- 30_encoding R96: the tokens of the pseudo-operations, and what RX_ABORT does. -/
def Obligations.PseudoOperationsExpand : Prop :=
  (∀ m, (expand (.handshake m)).map encode = [[0x10, m, 0x00, 0, 0, 0]]) ∧
  (∀ m, (expand (.commit m)).map encode = [[0x10, m, 0x01, 0, 0, 0]]) ∧
  (∀ m, (expand (.start m)).map encode = [[0x10, m, 0x11, 0, 0, 0]]) ∧
  (∀ m, (expand (.stop m)).map encode = [[0x10, m, 0x12, 0, 0, 0]]) ∧
  (∀ m, (expand (.trigger m)).map encode = [[0x10, m, 0x13, 0, 0, 0]]) ∧
  (∀ m w, (expand (.sendInfo m w)).map encode =
    [[0x10, m, 0x1C] ++ be24 (w.length + 3) ++ be24 w.length ++ w]) ∧
  (expand .rxDrain).map encode = [[0x20, 0x00, 0x00]] ∧
  ∀ s : State, execAll (expand .rxAbort) s =
    .next { s with rxbuf := [], armed := false, resp := s.resp ++ [[0x00], [0x00]] }

/-- 30_encoding R95: every line of the table, with every text of its bytes, lists and addresses, parses
to its instruction and assembles to its token, which decodes to it; every well-formed command but the
reserved row has such a line; and a semicolon starts a comment. Of whatever line the assembler reads,
every token decodes to its instruction. The blanks are the table's own; that hex digits may be of either
case is the model's choice (log 17). -/
def Obligations.AssembledTokensDecode : Prop :=
  (∀ (line : List Char) (i : Instr) (t : Bytes), AsmRow line i t → i.wf = true →
    parseLine line = some [i] ∧ assemble line = some [t] ∧ decode .cmd t = .ok i) ∧
  (∀ i : Instr, i.wf = true → i.port = .cmd → (∀ t, i ≠ .reservedOpcode t) → ∃ line t, AsmRow line i t) ∧
  (∀ line comment : List Char, parseLine (line ++ ';' :: comment) = parseLine line) ∧
  ∀ (line : List Char) (is : List Instr), parseLine line = some is →
    assemble line = some (is.map encode) ∧ ∀ i ∈ is, decode .cmd (encode i) = .ok i

/-- 30_encoding R96: the line of every pseudo-operation, with every text of its operands, parses to its
expansion. -/
def Obligations.PseudoOperationLinesParse : Prop :=
  ∀ (line : List Char) (p : Pseudo), PseudoRow line p → (∀ i ∈ expand p, i.wf = true) →
    parseLine line = some (expand p)
end

