-- ==== Sys2Proof/Laws/Assembler.lean ====
section
/-! SUPPORT. What the assembler's reader makes of each text of Machine/AsmLines.lean: words, byte
literals, addresses, lists and comments. -/

namespace Sys2Proof.Machine

/-! ### Words and comments -/

/-- Whether a character neither ends a word nor starts a comment. -/
def isPlain (c : Char) : Bool := !([';', ' ', '\t', ',', '[', ']'].contains c)

/-- A word's characters join the word being read. -/
theorem lexLine_plain (w acc rest : List Char) (h : w.all isPlain = true) :
    lexLine acc (w ++ rest) = lexLine (acc ++ w) rest := by
  induction w generalizing acc with
  | nil => simp
  | cons c w ih =>
    simp only [List.all_cons, Bool.and_eq_true] at h
    have hc := h.1
    simp only [isPlain, Bool.not_eq_true', List.contains_eq_mem, decide_eq_false_iff_not, List.mem_cons,
      List.not_mem_nil, or_false, not_or] at hc
    rw [List.cons_append, lexLine]
    simp only [hc, if_false, or_false]
    rw [ih _ h.2, List.append_assoc, List.singleton_append]

theorem endWord_of_ne (w : List Char) (h : w ≠ []) : endWord w = [.word w] := by
  cases w with
  | nil => exact absurd rfl h
  | cons c w => rfl

/-- A word that ends the line. -/
theorem lexLine_last (w : List Char) (hw : w.all isPlain = true) (hne : w ≠ []) :
    lexLine [] w = [.word w] := by
  have h := lexLine_plain w [] [] hw
  rw [List.append_nil, List.nil_append] at h
  rw [h, lexLine, endWord_of_ne w hne]

/-- A word before a comma and a blank. -/
theorem lexLine_comma (w rest : List Char) (hw : w.all isPlain = true) (hne : w ≠ []) :
    lexLine [] (w ++ ',' :: ' ' :: rest) = .word w :: .comma :: lexLine [] rest := by
  rw [lexLine_plain w [] _ hw, List.nil_append, lexLine]
  simp only [show ¬ ',' = ';' by decide, show ¬ (',' = ' ' ∨ ',' = '\t') by decide, if_false, if_true]
  rw [endWord_of_ne w hne, lexLine]
  simp [endWord]

/-- A semicolon and what follows it are no part of the line. -/
theorem lexLine_comment (line acc comment : List Char) :
    lexLine acc (line ++ ';' :: comment) = lexLine acc line := by
  induction line generalizing acc with
  | nil => simp [lexLine]
  | cons c line ih => simp only [List.cons_append, lexLine, ih]

/-! ### Byte literals and addresses -/

theorem hexText_hexDigit (n : Nat) (c : Char) (h : HexText n c) :
    n < 16 ∧ hexDigit c = some n ∧ isPlain c = true := by
  have hn : n < 16 := by
    rcases h with h | h <;> · obtain ⟨hl, -⟩ := List.getElem?_eq_some_iff.1 h; exact hl
  refine ⟨hn, ?_⟩
  rcases h with h | h <;> interval_cases n <;> (cases h; decide)

theorem decText_spec (b : Byte) :
    byteLit (decText b) = some b ∧ address (decText b) = some b ∧
      (decText b).all isPlain = true ∧ decText b ≠ [] := by
  revert b; decide

/-- A byte literal is one word, and reads as its byte, as an address too. -/
theorem byteText_spec (b : Byte) (cs : List Char) (h : ByteText b cs) :
    byteLit cs = some b ∧ address cs = some b ∧ cs.all isPlain = true ∧ cs ≠ [] := by
  rcases h with ⟨x, y, hx, hy, rfl⟩ | rfl
  · obtain ⟨-, hx, px⟩ := hexText_hexDigit _ _ hx
    obtain ⟨-, hy, py⟩ := hexText_hexDigit _ _ hy
    have hb : byteLit ['0', 'x', x, y] = some b := by
      have : b.toNat / 16 * 16 + b.toNat % 16 = b.toNat := by omega
      simp [byteLit, hx, hy, this]
    refine ⟨hb, ?_, ?_, by simp⟩
    · rw [← hb]; simp [address]
    · simp only [List.all_cons, px, py, List.all_nil, Bool.and_true]; decide
  · exact decText_spec b

/-- An address is one word, and reads as its address. -/
theorem addrText_spec (a : Byte) (cs : List Char) (h : AddrText a cs) :
    address cs = some a ∧ cs.all isPlain = true ∧ cs ≠ [] := by
  rcases h with h | h
  · exact (byteText_spec a cs h).2
  · simp only [List.mem_cons, List.not_mem_nil, or_false, Prod.mk.injEq] at h
    rcases h with ⟨rfl, rfl⟩ | ⟨rfl, rfl⟩ | ⟨rfl, rfl⟩ | ⟨rfl, rfl⟩ | ⟨rfl, rfl⟩ <;> decide

/-! ### Lists -/

/-- Items and their closing bracket read as their bytes. -/
theorem itemsText_spec (bs : Bytes) (ts : List Char) (h : ItemsText bs ts) :
    listTail (lexLine [] (ts ++ [']'])) = some bs := by
  induction h with
  | one b cs h =>
    obtain ⟨hb, -, hp, hne⟩ := byteText_spec b cs h
    rw [lexLine_plain cs [] _ hp, List.nil_append, lexLine]
    simp [lexLine, endWord, listTail, hb]
  | more b bs cs ts h _ ih =>
    obtain ⟨hb, -, hp, hne⟩ := byteText_spec b cs h
    rw [List.append_assoc, List.cons_append, List.cons_append, lexLine_comma cs _ hp hne]
    simp [listTail, hb, ih]

/-- A list starts with its bracket and reads as its bytes. -/
theorem listText_spec (bs : Bytes) (ts : List Char) (h : ListText bs ts) :
    ∃ rest, lexLine [] ts = .lbracket :: rest ∧ byteList (lexLine [] ts) = some bs := by
  rcases h with ⟨rfl, rfl⟩ | ⟨ts, h, rfl⟩
  · exact ⟨_, rfl, rfl⟩
  · have ht := itemsText_spec bs ts h
    have e : lexLine [] ('[' :: (ts ++ [']'])) = .lbracket :: lexLine [] (ts ++ [']']) := by
      rw [lexLine]; simp [endWord]
    refine ⟨_, e, ?_⟩
    rw [e]
    generalize lexLine [] (ts ++ [']']) = l at ht
    match l, ht with
    | .word _ :: _, ht => exact ht
    | .comma :: _, ht => cases ht
    | .lbracket :: _, ht => cases ht
    | .rbracket :: _, ht => cases ht
    | [], ht => cases ht

/-! ### The operand shapes of a line -/

/-- A mnemonic and a blank before its operands. -/
theorem lexLine_mnemonic (w rest : List Char) (hw : w.all isPlain = true) (hne : w ≠ []) :
    lexLine [] (w ++ ' ' :: rest) = .word w :: lexLine [] rest := by
  rw [lexLine_plain w [] _ hw, List.nil_append, lexLine]
  simp [endWord_of_ne w hne]

/-- A line whose lexemes are a mnemonic and operands of well-formed instructions. -/
theorem parseLine_eq (line mn : List Char) (ops : List Lexeme) (is : List Instr)
    (hl : lexLine [] line = .word mn :: ops) (hp : parseOps mn ops = some is)
    (hw : is.all Instr.wf = true) : parseLine line = some is := by
  rw [parseLine, hl]
  simp only [hp, Option.bind_some, hw, if_true]

/-- The rows whose only operand is a list. -/
theorem parseOps_list (mn : List Char) (r : List Lexeme) :
    parseOps mn (.lbracket :: r) =
      if mn = "CK_COMPUTE".toList then (byteList (.lbracket :: r)).map fun x => [.ckCompute x]
      else if mn = "CK_VERIFY".toList then (byteList (.lbracket :: r)).map fun x => [.ckVerify x]
      else if mn = "RX_FEED".toList then (byteList (.lbracket :: r)).map fun x => [.rxFeed x]
      else none := rfl

/-- The row with two bytes and a list. -/
theorem parseOps_txBuild (a b : List Char) (r : List Lexeme) :
    parseOps "TX_BUILD".toList (.word a :: .comma :: .word b :: .comma :: r) =
      (byteLit a).bind fun m => (byteLit b).bind fun c => (byteList r).map fun p => [.txBuild m c p] := by
  rw [parseOps, if_pos rfl]

/-- The pseudo-operation with a byte and a list. -/
theorem parseOps_sendInfo (a : List Char) (r : List Lexeme) :
    parseOps "SEND_INFO".toList (.word a :: .comma :: .lbracket :: r) =
      (byteLit a).bind fun m => (byteList (.lbracket :: r)).map fun w => expand (.sendInfo m w) := rfl

end Sys2Proof.Machine
end

