-- ==== Sys2Proof/Laws/Bytes.lean ====
section
/-! SUPPORT. Byte order, byte sequences, lengths and the footer search. -/

namespace Sys2Proof

/-! ### Byte order -/

theorem hi8_toNat (n : Nat) : (hi8 n).toNat = n / 256 % 256 := by simp [hi8]

theorem lo8_toNat (n : Nat) : (lo8 n).toNat = n % 256 := by simp [lo8]

theorem u16_hi8_lo8 (n : Nat) (h : n ≤ maxTL) : u16 (hi8 n) (lo8 n) = n := by
  unfold maxTL at h
  rw [u16, hi8_toNat, lo8_toNat]; omega

theorem u24_be24 (n : Nat) (h : n ≤ maxTX) :
    u24 (BitVec.ofNat 8 (n / 65536)) (hi8 n) (lo8 n) = n := by
  unfold maxTX at h
  rw [u24, hi8_toNat, lo8_toNat, BitVec.toNat_ofNat]; omega

theorem u16_le (h l : Byte) : u16 h l ≤ maxTL := by
  have := h.isLt; have := l.isLt
  unfold u16 maxTL; omega

theorem u24_le (a b c : Byte) : u24 a b c ≤ maxTX := by
  have := a.isLt; have := b.isLt; have := c.isLt
  unfold u24 maxTX; omega

theorem hi8_u16 (h l : Byte) : hi8 (u16 h l) = h := by
  apply BitVec.eq_of_toNat_eq
  have := h.isLt; have := l.isLt
  rw [hi8_toNat]; unfold u16; omega

theorem lo8_u16 (h l : Byte) : lo8 (u16 h l) = l := by
  apply BitVec.eq_of_toNat_eq
  have := l.isLt
  rw [lo8_toNat]; unfold u16; omega

theorem be16_u16 (h l : Byte) : be16 (u16 h l) = [h, l] := by simp [be16, hi8_u16, lo8_u16]

theorem be24_u24 (a b c : Byte) : be24 (u24 a b c) = [a, b, c] := by
  have ha := a.isLt; have hb := b.isLt; have hc := c.isLt
  simp only [be24, List.cons.injEq, and_true]
  refine ⟨?_, ?_, ?_⟩ <;> apply BitVec.eq_of_toNat_eq
  · rw [BitVec.toNat_ofNat]; unfold u24; omega
  · rw [hi8_toNat]; unfold u24; omega
  · rw [lo8_toNat]; unfold u24; omega

@[simp] theorem be16_length (n : Nat) : (be16 n).length = 2 := rfl
@[simp] theorem be24_length (n : Nat) : (be24 n).length = 3 := rfl

/-! ### Bytes and slices of a sequence -/

@[simp] theorem byteAt_zero (a : Byte) (s : Bytes) : byteAt (a :: s) 0 = a := rfl
@[simp] theorem byteAt_succ (a : Byte) (s : Bytes) (i : Nat) : byteAt (a :: s) (i + 1) = byteAt s i := rfl
@[simp] theorem byteAt_one (a b : Byte) (s : Bytes) : byteAt (a :: b :: s) 1 = b := rfl
@[simp] theorem byteAt_two (a b c : Byte) (s : Bytes) : byteAt (a :: b :: c :: s) 2 = c := rfl
@[simp] theorem byteAt_three (a b c d : Byte) (s : Bytes) : byteAt (a :: b :: c :: d :: s) 3 = d := rfl
@[simp] theorem byteAt_four (a b c d e : Byte) (s : Bytes) :
    byteAt (a :: b :: c :: d :: e :: s) 4 = e := rfl

theorem slice_append (a b c : Bytes) (hi : Nat) (h : hi + 1 = a.length + b.length) :
    slice (a ++ b ++ c) a.length hi = b := by
  have : hi + 1 - a.length = b.length := by omega
  simp [slice, this]

/-! ### Wire frames -/

@[simp] theorem sealed_length (x : Bytes) : (sealed x).length = x.length + 3 := by simp [sealed]

@[simp] theorem requestFrame_length (m c : Byte) (p : Bytes) :
    (requestFrame m c p).length = p.length + 7 := by simp [requestFrame]

@[simp] theorem responseFrame_length (t m st c : Byte) (d : Bytes) :
    (responseFrame t m st c d).length = d.length + 8 := by simp [responseFrame]

theorem requestFrame_payload (m c : Byte) (p : Bytes) :
    slice (requestFrame m c p) 4 ((requestFrame m c p).length - 4) = p := by
  rw [requestFrame_length, requestFrame, sealed, List.append_assoc _ [ESC, ETX]]
  exact slice_append [ESC, STX, m, c] p _ _ (by simp; omega)

theorem responseFrame_data (t m st c : Byte) (d : Bytes) :
    slice (responseFrame t m st c d) 5 ((responseFrame t m st c d).length - 4) = d := by
  rw [responseFrame_length, responseFrame, sealed, List.append_assoc _ [ESC, ETX]]
  exact slice_append [ESC, t, m, st, c] d _ _ (by simp; omega)

/-! ### The footer search -/

theorem pairAt_cons_succ (a : Byte) (s : Bytes) (i : Nat) : PairAt (a :: s) (i + 1) ↔ PairAt s i := by
  simp [PairAt]

theorem pairAt_drop (b : Bytes) (n i : Nat) : PairAt (b.drop n) i ↔ PairAt b (n + i) := by
  simp [PairAt, Nat.add_assoc]

/-- The search answers the first offset of the pair, and `none` only when there is no pair. -/
theorem findPair_spec (b : Bytes) :
    match findPair b with
    | some i => PairAt b i ∧ ∀ j < i, ¬ PairAt b j
    | none => ∀ j, ¬ PairAt b j := by
  fun_induction findPair b with
  | case1 a c s h => simpa [PairAt] using h
  | case2 a c s hne ih =>
    have h0 : ¬ PairAt (a :: c :: s) 0 := by simpa [PairAt] using hne
    cases hf : findPair (c :: s) with
    | none =>
      rw [hf] at ih
      intro j
      cases j with
      | zero => exact h0
      | succ j => rw [pairAt_cons_succ]; exact ih j
    | some i =>
      rw [hf] at ih
      refine ⟨(pairAt_cons_succ a _ i).2 ih.1, fun j (hj : j < i + 1) => ?_⟩
      cases j with
      | zero => exact h0
      | succ j => rw [pairAt_cons_succ]; exact ih.2 j (by omega)
  | case3 b hb =>
    intro j
    match b, hb with
    | [], _ => simp [PairAt]
    | [a], _ => cases j <;> simp [PairAt]
    | a :: c :: s, hb => exact absurd rfl (hb a c s)

theorem findPair_eq_some (b : Bytes) (i : Nat) :
    findPair b = some i ↔ PairAt b i ∧ ∀ j < i, ¬ PairAt b j := by
  have h := findPair_spec b
  constructor
  · intro e; rw [e] at h; exact h
  · rintro ⟨hi, hlt⟩
    cases hf : findPair b with
    | none => rw [hf] at h; exact absurd hi (h i)
    | some k =>
      rw [hf] at h
      rcases Nat.lt_trichotomy k i with hk | hk | hk
      · exact absurd h.1 (hlt k hk)
      · rw [hk]
      · exact absurd hi (h.2 i hk)

theorem findPair_eq_none (b : Bytes) : findPair b = none ↔ ∀ j, ¬ PairAt b j := by
  have h := findPair_spec b
  constructor
  · intro e; rw [e] at h; exact h
  · intro hn
    cases hf : findPair b with
    | none => rfl
    | some k => rw [hf] at h; exact absurd h.1 (hn k)

theorem pairFree_iff (d : Bytes) : pairFree d = true ↔ ∀ j, ¬ PairAt d j := by
  rw [pairFree, Option.isNone_iff_eq_none, findPair_eq_none]

end Sys2Proof
end

