-- ==== Sys2Proof/Laws/Checksum.lean ====
section
/-! SUPPORT. The checksum function over concatenations. -/

namespace Sys2Proof

@[simp] theorem byteSum_append (a b : Bytes) : byteSum (a ++ b) = byteSum a + byteSum b := by
  induction a with
  | nil => simp [byteSum]
  | cons x a ih => simp [byteSum, ih, Nat.add_assoc]

theorem byteSum_singleton (k : Byte) : byteSum [k] = k.toNat := by simp [byteSum]

theorem sum8_toNat (s : Bytes) : (sum8 s).toNat = byteSum s % 256 := by simp [sum8]

theorem ck_sum (s : Bytes) : (byteSum s + (ck s).toNat) % 256 = 0 := by
  rw [ck, BitVec.toNat_ofNat, sum8_toNat]; omega

@[simp] theorem verify_nil : verify [] = false := rfl

theorem verify_concat (x : Bytes) (k : Byte) : verify (x ++ [k]) = (ck x == k) := by simp [verify]

theorem verify_sealed (x : Bytes) : verify (sealed x) = true := by simp [sealed, verify]

end Sys2Proof
end

