-- ==== Sys2Proof/Laws/Decode.lean ====
section
/-! SUPPORT. One lemma per token format that says when it decodes and to what, and what the decoder's
opcode map does at each opcode. -/

namespace Sys2Proof

/-! ### The formats (30_encoding R82) -/

theorem decodeT0_ok (i j : Instr) (rest : Bytes) : decodeT0 i rest = .ok j ↔ rest = [] ∧ j = i := by
  unfold decodeT0
  cases rest <;> simp [eq_comm]

theorem decodeTL_ok (mk : Bytes → Instr) (rest : Bytes) (j : Instr) :
    decodeTL mk rest = .ok j ↔ ∃ bs, bs.length ≤ maxTL ∧ rest = be16 bs.length ++ bs ∧ j = mk bs := by
  constructor
  · intro h
    unfold decodeTL at h
    split at h
    · next nH nL bytes =>
      split at h
      · next hl =>
        injection h with h
        exact ⟨bytes, hl ▸ u16_le nH nL, by rw [hl, be16_u16]; rfl, h.symm⟩
      · cases h
    · cases h
  · rintro ⟨bs, hl, rfl, rfl⟩
    simp [decodeTL, be16, u16_hi8_lo8 _ hl]

theorem decodeTX_ok (rest : Bytes) (j : Instr) :
    decodeTX rest = .ok j ↔
      ∃ m c p, p.length ≤ maxTX ∧ rest = [m, c] ++ be24 p.length ++ p ∧ j = .txBuild m c p := by
  constructor
  · intro h
    unfold decodeTX at h
    split at h
    · next m c n2 n1 n0 p =>
      split at h
      · next hl =>
        injection h with h
        exact ⟨m, c, p, hl ▸ u24_le n2 n1 n0, by rw [hl, be24_u24]; rfl, h.symm⟩
      · cases h
    · cases h
  · rintro ⟨m, c, p, hl, rfl, rfl⟩
    simp [decodeTX, be24, u24_be24 _ hl]

theorem decodeTA_ok (rest : Bytes) (j : Instr) :
    decodeTA rest = .ok j ↔ ∃ a, rest = [a] ∧ j = .regRead a := by
  unfold decodeTA
  split <;> simp_all [eq_comm]

theorem decodeTAV_ok (rest : Bytes) (j : Instr) :
    decodeTAV rest = .ok j ↔ ∃ a v, rest = [a, v] ∧ j = .regWrite a v := by
  unfold decodeTAV
  split <;> simp_all [eq_comm]

/-! ### The opcode map (30_encoding R81) -/

theorem decodeToken_reset (r : Bytes) : decodeToken (opReset :: r) = decodeT0 .reset r := rfl
theorem decodeToken_ckCompute (r : Bytes) : decodeToken (opCkCompute :: r) = decodeTL .ckCompute r := rfl
theorem decodeToken_ckVerify (r : Bytes) : decodeToken (opCkVerify :: r) = decodeTL .ckVerify r := rfl
theorem decodeToken_txBuild (r : Bytes) : decodeToken (opTxBuild :: r) = decodeTX r := rfl
theorem decodeToken_rxFeed (r : Bytes) : decodeToken (opRxFeed :: r) = decodeTL .rxFeed r := rfl
theorem decodeToken_rxFlush (r : Bytes) : decodeToken (opRxFlush :: r) = decodeT0 .rxFlush r := rfl
theorem decodeToken_rxDisarm (r : Bytes) : decodeToken (opRxDisarm :: r) = decodeT0 .rxDisarm r := rfl
theorem decodeToken_regRead (r : Bytes) : decodeToken (opRegRead :: r) = decodeTA r := rfl
theorem decodeToken_regWrite (r : Bytes) : decodeToken (opRegWrite :: r) = decodeTAV r := rfl

/-- Every token of the reserved row decodes to it, as it stands (30_encoding R84). -/
theorem decodeToken_reserved (t : Bytes) (h : isReserved t = true) :
    decodeToken t = .ok (.reservedOpcode t) := by
  cases t with
  | nil => rfl
  | cons op r => simp_all [isReserved, opcodes, decodeToken]

/-- Byte 0 of a token that is not of the reserved row is one of the nine opcodes. -/
theorem opcode_cases (op : Byte) (r : Bytes) (h : isReserved (op :: r) = false) :
    op = opReset ∨ op = opCkCompute ∨ op = opCkVerify ∨ op = opTxBuild ∨ op = opRxFeed ∨
      op = opRxFlush ∨ op = opRxDisarm ∨ op = opRegRead ∨ op = opRegWrite := by
  have h' : opcodes.contains op = true := by simpa [isReserved] using h
  simpa [opcodes] using List.contains_iff_mem.1 h'

/-- A token is rejected only for its length (30_encoding R83). -/
theorem decodeToken_error (t : Bytes) (e : Reject) (h : decodeToken t = .error e) : e = .badLength := by
  cases hr : isReserved t with
  | true => rw [decodeToken_reserved t hr] at h; cases h
  | false =>
    match t, hr with
    | op :: r, hr =>
      have hT0 : ∀ i, decodeT0 i r = .error e → e = .badLength := by
        intro i h; unfold decodeT0 at h; split at h <;> simp_all
      have hTL : ∀ mk, decodeTL mk r = .error e → e = .badLength := by
        intro mk h; unfold decodeTL at h
        split at h
        · split at h <;> simp_all
        · simp_all
      have hTX : decodeTX r = .error e → e = .badLength := by
        intro h; unfold decodeTX at h
        split at h
        · split at h <;> simp_all
        · simp_all
      have hTA : decodeTA r = .error e → e = .badLength := by
        intro h; unfold decodeTA at h; split at h <;> simp_all
      have hTAV : decodeTAV r = .error e → e = .badLength := by
        intro h; unfold decodeTAV at h; split at h <;> simp_all
      rcases opcode_cases op r hr with rfl | rfl | rfl | rfl | rfl | rfl | rfl | rfl | rfl
      · exact hT0 _ h
      · exact hTL _ h
      · exact hTL _ h
      · exact hTX h
      · exact hTL _ h
      · exact hT0 _ h
      · exact hT0 _ h
      · exact hTA h
      · exact hTAV h

/-! ### Wire frames -/

@[simp] theorem requestFrame_byte0 (m c : Byte) (p : Bytes) : byteAt (requestFrame m c p) 0 = ESC := rfl
@[simp] theorem requestFrame_byte1 (m c : Byte) (p : Bytes) : byteAt (requestFrame m c p) 1 = STX := rfl
@[simp] theorem requestFrame_byte2 (m c : Byte) (p : Bytes) : byteAt (requestFrame m c p) 2 = m := rfl
@[simp] theorem requestFrame_byte3 (m c : Byte) (p : Bytes) : byteAt (requestFrame m c p) 3 = c := rfl
@[simp] theorem responseFrame_byte0 (t m st c : Byte) (d : Bytes) :
    byteAt (responseFrame t m st c d) 0 = ESC := rfl
@[simp] theorem responseFrame_byte1 (t m st c : Byte) (d : Bytes) :
    byteAt (responseFrame t m st c d) 1 = t := rfl
@[simp] theorem responseFrame_byte2 (t m st c : Byte) (d : Bytes) :
    byteAt (responseFrame t m st c d) 2 = m := rfl
@[simp] theorem responseFrame_byte3 (t m st c : Byte) (d : Bytes) :
    byteAt (responseFrame t m st c d) 3 = st := rfl
@[simp] theorem responseFrame_byte4 (t m st c : Byte) (d : Bytes) :
    byteAt (responseFrame t m st c d) 4 = c := rfl

/-- Frames of different kinds differ in their kind byte (30_encoding R75). -/
theorem frame_kinds_differ (m c t m' st c' : Byte) (p d : Bytes) (ht : t = ACK ∨ t = NAK) :
    responseFrame t m' st c' d ≠ requestFrame m c p := by
  intro h
  have h1 := congrArg (byteAt · 1) h
  rcases ht with rfl | rfl <;> exact absurd h1 (by simp [ACK, NAK, STX])

theorem ack_ne_nak_frame (m st c m' st' c' : Byte) (d d' : Bytes) :
    responseFrame NAK m st c d ≠ responseFrame ACK m' st' c' d' := by
  intro h
  exact absurd (congrArg (byteAt · 1) h) (by simp [ACK, NAK])

end Sys2Proof
end

