-- ==== Sys2Proof/Laws/State.lean ====
section
/-! SUPPORT. What each shared update of the state does to each field: one lemma per field per update. -/

namespace Sys2Proof.Machine

/-! ### Reset -/

@[simp] theorem State.reset_rxbuf : State.reset.rxbuf = [] := rfl
@[simp] theorem State.reset_armed : State.reset.armed = false := rfl
@[simp] theorem State.reset_expect : State.reset.expect = 0x00 := rfl
@[simp] theorem State.reset_corrEn : State.reset.corrEn = true := rfl
@[simp] theorem State.reset_input : State.reset.input = [] := rfl
@[simp] theorem State.reset_txout : State.reset.txout = [] := rfl
@[simp] theorem State.reset_resp : State.reset.resp = [] := rfl
@[simp] theorem State.reset_draws : State.reset.draws = 0 := rfl

/-! ### respond -/

@[simp] theorem respond_rxbuf (r : Response) (s : State) : (respond r s).rxbuf = s.rxbuf := rfl
@[simp] theorem respond_armed (r : Response) (s : State) : (respond r s).armed = s.armed := rfl
@[simp] theorem respond_expect (r : Response) (s : State) : (respond r s).expect = s.expect := rfl
@[simp] theorem respond_corrEn (r : Response) (s : State) : (respond r s).corrEn = s.corrEn := rfl
@[simp] theorem respond_input (r : Response) (s : State) : (respond r s).input = s.input := rfl
@[simp] theorem respond_txout (r : Response) (s : State) : (respond r s).txout = s.txout := rfl
@[simp] theorem respond_resp (r : Response) (s : State) : (respond r s).resp = s.resp ++ [r.toBytes] := rfl
@[simp] theorem respond_draws (r : Response) (s : State) : (respond r s).draws = s.draws := rfl

/-! ### turnAway -/

@[simp] theorem turnAway_rxbuf (r : Response) (s : State) : (turnAway r s).rxbuf = s.rxbuf := rfl
@[simp] theorem turnAway_armed (r : Response) (s : State) : (turnAway r s).armed = s.armed := rfl
@[simp] theorem turnAway_expect (r : Response) (s : State) : (turnAway r s).expect = s.expect := rfl
@[simp] theorem turnAway_corrEn (r : Response) (s : State) : (turnAway r s).corrEn = s.corrEn := rfl
@[simp] theorem turnAway_input (r : Response) (s : State) : (turnAway r s).input = s.input := rfl
@[simp] theorem turnAway_txout (r : Response) (s : State) : (turnAway r s).txout = s.txout := rfl
@[simp] theorem turnAway_resp (r : Response) (s : State) : (turnAway r s).resp = s.resp ++ [r.toBytes] := rfl
@[simp] theorem turnAway_draws (r : Response) (s : State) : (turnAway r s).draws = s.draws := rfl

/-! ### emit -/

@[simp] theorem emit_rxbuf (bs : Bytes) (s : State) : (emit bs s).rxbuf = s.rxbuf := rfl
@[simp] theorem emit_armed (bs : Bytes) (s : State) : (emit bs s).armed = s.armed := rfl
@[simp] theorem emit_expect (bs : Bytes) (s : State) : (emit bs s).expect = s.expect := rfl
@[simp] theorem emit_corrEn (bs : Bytes) (s : State) : (emit bs s).corrEn = s.corrEn := rfl
@[simp] theorem emit_input (bs : Bytes) (s : State) : (emit bs s).input = s.input := rfl
@[simp] theorem emit_txout (bs : Bytes) (s : State) : (emit bs s).txout = s.txout ++ bs := rfl
@[simp] theorem emit_resp (bs : Bytes) (s : State) : (emit bs s).resp = s.resp := rfl
@[simp] theorem emit_draws (bs : Bytes) (s : State) : (emit bs s).draws = s.draws := rfl

/-! ### resetElements -/

@[simp] theorem resetElements_rxbuf (s : State) : (resetElements s).rxbuf = [] := rfl
@[simp] theorem resetElements_armed (s : State) : (resetElements s).armed = false := rfl
@[simp] theorem resetElements_expect (s : State) : (resetElements s).expect = 0x00 := rfl
@[simp] theorem resetElements_corrEn (s : State) : (resetElements s).corrEn = true := rfl
@[simp] theorem resetElements_input (s : State) : (resetElements s).input = s.input := rfl
@[simp] theorem resetElements_txout (s : State) : (resetElements s).txout = s.txout := rfl
@[simp] theorem resetElements_resp (s : State) : (resetElements s).resp = s.resp := rfl
@[simp] theorem resetElements_draws (s : State) : (resetElements s).draws = s.draws := rfl

/-! ### disarm -/

@[simp] theorem disarm_rxbuf (s : State) : (disarm s).rxbuf = s.rxbuf := rfl
@[simp] theorem disarm_armed (s : State) : (disarm s).armed = false := rfl
@[simp] theorem disarm_expect (s : State) : (disarm s).expect = s.expect := rfl
@[simp] theorem disarm_corrEn (s : State) : (disarm s).corrEn = s.corrEn := rfl
@[simp] theorem disarm_input (s : State) : (disarm s).input = s.input := rfl
@[simp] theorem disarm_txout (s : State) : (disarm s).txout = s.txout := rfl
@[simp] theorem disarm_resp (s : State) : (disarm s).resp = s.resp := rfl
@[simp] theorem disarm_draws (s : State) : (disarm s).draws = s.draws := rfl

/-! ### writeCtrl -/

@[simp] theorem writeCtrl_rxbuf (v : Byte) (s : State) : (writeCtrl v s).rxbuf = s.rxbuf := rfl
@[simp] theorem writeCtrl_armed (v : Byte) (s : State) : (writeCtrl v s).armed = (s.armed && v.getLsbD 0) := rfl
@[simp] theorem writeCtrl_expect (v : Byte) (s : State) : (writeCtrl v s).expect = s.expect := rfl
@[simp] theorem writeCtrl_corrEn (v : Byte) (s : State) : (writeCtrl v s).corrEn = v.getLsbD 0 := rfl
@[simp] theorem writeCtrl_input (v : Byte) (s : State) : (writeCtrl v s).input = s.input := rfl
@[simp] theorem writeCtrl_txout (v : Byte) (s : State) : (writeCtrl v s).txout = s.txout := rfl
@[simp] theorem writeCtrl_resp (v : Byte) (s : State) : (writeCtrl v s).resp = s.resp := rfl
@[simp] theorem writeCtrl_draws (v : Byte) (s : State) : (writeCtrl v s).draws = s.draws := rfl

/-! ### drawn -/

@[simp] theorem drawn_rxbuf (s : State) : (drawn s).rxbuf = s.rxbuf := rfl
@[simp] theorem drawn_armed (s : State) : (drawn s).armed = s.armed := rfl
@[simp] theorem drawn_expect (s : State) : (drawn s).expect = s.expect := rfl
@[simp] theorem drawn_corrEn (s : State) : (drawn s).corrEn = s.corrEn := rfl
@[simp] theorem drawn_input (s : State) : (drawn s).input = s.input := rfl
@[simp] theorem drawn_txout (s : State) : (drawn s).txout = s.txout := rfl
@[simp] theorem drawn_resp (s : State) : (drawn s).resp = s.resp := rfl
@[simp] theorem drawn_draws (s : State) : (drawn s).draws = s.draws + 1 := rfl

/-! ### arm -/

theorem arm_on (c : Byte) (s : State) (h : s.corrEn = true) :
    arm c s = { s with armed := true, expect := c } := by simp [arm, h]

theorem arm_off (c : Byte) (s : State) (h : s.corrEn = false) : arm c s = s := by simp [arm, h]

@[simp] theorem arm_rxbuf (c : Byte) (s : State) : (arm c s).rxbuf = s.rxbuf := by
  unfold arm; split <;> simp_all
@[simp] theorem arm_armed (c : Byte) (s : State) : (arm c s).armed = (s.corrEn || s.armed) := by
  unfold arm; split <;> simp_all
@[simp] theorem arm_expect (c : Byte) (s : State) : (arm c s).expect = if s.corrEn then c else s.expect := by
  unfold arm; split <;> simp_all
@[simp] theorem arm_corrEn (c : Byte) (s : State) : (arm c s).corrEn = s.corrEn := by
  unfold arm; split <;> simp_all
@[simp] theorem arm_input (c : Byte) (s : State) : (arm c s).input = s.input := by
  unfold arm; split <;> simp_all
@[simp] theorem arm_txout (c : Byte) (s : State) : (arm c s).txout = s.txout := by
  unfold arm; split <;> simp_all
@[simp] theorem arm_resp (c : Byte) (s : State) : (arm c s).resp = s.resp := by
  unfold arm; split <;> simp_all
@[simp] theorem arm_draws (c : Byte) (s : State) : (arm c s).draws = s.draws := by
  unfold arm; split <;> simp_all

end Sys2Proof.Machine
end

