-- ==== Sys2Proof/Laws/Ops.lean ====
section
/-! SUPPORT. One lemma per shared operation that says once everything it can do. -/

namespace Sys2Proof.Machine

/-! ### The capacity parameter -/

/-- The bounds of 00_scope R8. -/
theorem rxBufBytes_bounds : 8 ≤ Config.rxBufBytes ∧ Config.rxBufBytes ≤ 65535 := by
  unfold Config.rxBufBytes; omega

/-! ### Response tokens -/

@[simp] theorem counted_length (code : Byte) (x : Bytes) : (counted code x).length = x.length + 3 := by
  simp [counted]; omega

/-- Byte 0 of a response token is its status code (30_encoding R91). -/
def Response.code : Response → Byte
  | .ok => 0x00
  | .okByte _ => 0x00
  | .illegal => 0x01
  | .busy => 0x02
  | .full => 0x03
  | .incomplete => 0x10
  | .ready _ _ _ _ _ _ => 0x11
  | .invHeader _ => 0x20
  | .invChecksum _ => 0x21
  | .invMismatch _ => 0x22
  | .invUnsolicited _ => 0x23

theorem toBytes_head (r : Response) : ∃ x, r.toBytes = r.code :: x := by
  cases r <;> exact ⟨_, rfl⟩

theorem legalResponse_counted (code : Byte) (x : Bytes)
    (hc : code = 0x20 ∨ code = 0x21 ∨ code = 0x22 ∨ code = 0x23)
    (hmin : minFrame ≤ x.length) (hmax : x.length ≤ maxTL) : legalResponse (counted code x) = true := by
  have hu := u16_hi8_lo8 x.length hmax
  rcases hc with rfl | rfl | rfl | rfl <;> simp [counted, be16, legalResponse, hu, hmin]

theorem readyFlags_le (st : Byte) : (readyFlags st).toNat ≤ 3 := by
  unfold readyFlags; split <;> split <;> decide

theorem legalResponse_ready (t m st c : Byte) (d : Bytes) (ht : t = ACK ∨ t = NAK)
    (hmax : d.length ≤ maxTL) : legalResponse (Response.ready t m st c (readyFlags st) d).toBytes = true := by
  have hu := u16_hi8_lo8 d.length hmax
  have hf := readyFlags_le st
  rcases ht with rfl | rfl <;> simp [Response.toBytes, be16, legalResponse, hu, hf]

/-! ### Register accesses -/

/-- A register read answers one of the five registers, or none at a reserved address. -/
theorem readReg_cases (a : Byte) (s : State) :
    (a = addrCtrl ∧ readReg a s = some (ctrlByte s)) ∨
    (a = addrStat ∧ readReg a s = some (statByte s)) ∨
    (a = addrExpect ∧ readReg a s = some s.expect) ∨
    (a = addrRxlvlHi ∧ readReg a s = some (hi8 s.rxbuf.length)) ∨
    (a = addrRxlvlLo ∧ readReg a s = some (lo8 s.rxbuf.length)) ∨
    (addrRxlvlLo.toNat < a.toNat ∧ readReg a s = none) := by
  by_cases h0 : a = addrCtrl
  · subst h0; exact .inl ⟨rfl, rfl⟩
  by_cases h1 : a = addrStat
  · subst h1; exact .inr (.inl ⟨rfl, rfl⟩)
  by_cases h2 : a = addrExpect
  · subst h2; exact .inr (.inr (.inl ⟨rfl, rfl⟩))
  by_cases h3 : a = addrRxlvlHi
  · subst h3; exact .inr (.inr (.inr (.inl ⟨rfl, rfl⟩)))
  by_cases h4 : a = addrRxlvlLo
  · subst h4; exact .inr (.inr (.inr (.inr (.inl ⟨rfl, rfl⟩))))
  refine .inr (.inr (.inr (.inr (.inr ⟨?_, by simp [readReg, h0, h1, h2, h3, h4]⟩))))
  clear s
  revert a
  decide

/-- A register write writes CTRL, or nothing. -/
theorem writeReg_cases (a v : Byte) (s : State) :
    (a = addrCtrl ∧ writeReg a v s = some (writeCtrl v s)) ∨ (a ≠ addrCtrl ∧ writeReg a v s = none) := by
  by_cases h : a = addrCtrl <;> simp [writeReg, h]

/-! ### The transmit framer -/

/-- TX_BUILD is BUSY, or sends its frame, arms and answers OK. -/
theorem buildAndSend_cases (m c : Byte) (p : Bytes) (s : State) :
    (s.corrEn = true ∧ s.armed = true ∧ buildAndSend m c p s = turnAway .busy s) ∨
    ((s.corrEn = false ∨ s.armed = false) ∧
      buildAndSend m c p s = respond .ok (arm c (emit (requestFrame m c p) s))) := by
  unfold buildAndSend outstanding
  cases s.corrEn <;> cases s.armed <;> simp

/-! ### One evaluation -/

theorem evaluate_short (b : Bytes) (h : b.length < minFrame) : evaluate b = (.incomplete, b) := by
  simp [evaluate, h]

theorem evaluate_badHeader (b : Bytes) (h : minFrame ≤ b.length) (hh : headerGood b = false) :
    evaluate b = (.invHeader b, []) := by
  simp [evaluate, Nat.not_lt.2 h, hh]

theorem evaluate_noFooter (b : Bytes) (hf : findFooter b = none) (hh : headerGood b = true) :
    evaluate b = (.incomplete, b) := by
  by_cases h : b.length < minFrame
  · exact evaluate_short b h
  · simp [evaluate, h, hh, hf]

theorem evaluate_noChecksum (b : Bytes) (f : Nat) (hf : findFooter b = some f)
    (hl : b.length ≤ f + 2) (hh : headerGood b = true) : evaluate b = (.incomplete, b) := by
  by_cases h : b.length < minFrame
  · exact evaluate_short b h
  · simp [evaluate, h, hh, hf, hl]

/-- The footer search answers the least offset 5 or later. -/
theorem findFooter_eq_some (b : Bytes) (f : Nat) :
    findFooter b = some f ↔ 5 ≤ f ∧ PairAt b f ∧ ∀ j, 5 ≤ j → j < f → ¬ PairAt b j := by
  unfold findFooter footerFrom
  constructor
  · intro h
    obtain ⟨i, hi, rfl⟩ := Option.map_eq_some_iff.1 h
    obtain ⟨hp, hl⟩ := (findPair_eq_some _ _).1 hi
    refine ⟨by omega, by rw [pairAt_drop] at hp; rwa [Nat.add_comm], fun j h5 hj hp' => ?_⟩
    refine hl (j - 5) (by omega) ?_
    rw [pairAt_drop]; rwa [show 5 + (j - 5) = j by omega]
  · rintro ⟨h5, hp, hl⟩
    refine Option.map_eq_some_iff.2 ⟨f - 5, (findPair_eq_some _ _).2 ⟨?_, fun j hj hp' => ?_⟩, by omega⟩
    · rw [pairAt_drop]; rwa [show 5 + (f - 5) = f by omega]
    · rw [pairAt_drop] at hp'; exact hl (5 + j) (by omega) (by omega) hp'

theorem findFooter_eq_none (b : Bytes) : findFooter b = none ↔ ∀ j, 5 ≤ j → ¬ PairAt b j := by
  unfold findFooter footerFrom
  rw [Option.map_eq_none_iff, findPair_eq_none]
  constructor
  · intro h j h5 hp
    refine h (j - 5) ?_
    rw [pairAt_drop]; rwa [show 5 + (j - 5) = j by omega]
  · intro h j hp
    rw [pairAt_drop] at hp; exact h (5 + j) (by omega) hp

/-- A footer with its checksum byte: the candidate frame is judged by its checksum alone. -/
theorem evaluate_candidate (b : Bytes) (f : Nat) (hf : findFooter b = some f) (hl : f + 2 < b.length)
    (hh : headerGood b = true) :
    evaluate b = (if verify (b.take (f + 3)) then .frame (b.take (f + 3)) else .invChecksum (b.take (f + 3)),
      b.drop (f + 3)) := by
  have h5 := ((findFooter_eq_some b f).1 hf).1
  have h8 : ¬ b.length < minFrame := by unfold minFrame; omega
  have hl' : ¬ b.length ≤ f + 2 := by omega
  simp only [evaluate, h8, hh, hf, hl', if_false]
  cases verify (b.take (f + 3)) <;> simp

theorem headerGood_take (b : Bytes) (n : Nat) (h : 2 ≤ n) : headerGood (b.take n) = headerGood b := by
  match n, h with
  | n + 2, _ =>
    match b with
    | [] => rfl
    | [_] => rfl
    | _ :: _ :: _ => rfl

/-- One evaluation leaves the buffer as it is, discards all of it, or cuts it in a candidate frame and
the rest; no byte is lost or made. -/
theorem evaluate_cases (b : Bytes) :
    (evaluate b = (.incomplete, b)) ∨
    (minFrame ≤ b.length ∧ headerGood b = false ∧ evaluate b = (.invHeader b, [])) ∨
    (∃ x rest, b = x ++ rest ∧ minFrame ≤ x.length ∧ headerGood x = true ∧ PairAt x (x.length - 3) ∧
      ((verify x = true ∧ evaluate b = (.frame x, rest)) ∨
       (verify x = false ∧ evaluate b = (.invChecksum x, rest)))) := by
  by_cases h8 : b.length < minFrame
  · exact .inl (evaluate_short b h8)
  cases hh : headerGood b with
  | false => exact .inr (.inl ⟨Nat.not_lt.1 h8, rfl, evaluate_badHeader b (Nat.not_lt.1 h8) hh⟩)
  | true =>
    cases hf : findFooter b with
    | none => exact .inl (evaluate_noFooter b hf hh)
    | some f =>
      by_cases hl : b.length ≤ f + 2
      · exact .inl (evaluate_noChecksum b f hf hl hh)
      obtain ⟨h5, hp, -⟩ := (findFooter_eq_some b f).1 hf
      have hlen : (b.take (f + 3)).length = f + 3 := by rw [List.length_take]; omega
      have he := evaluate_candidate b f hf (by omega) hh
      refine .inr (.inr ⟨b.take (f + 3), b.drop (f + 3), (List.take_append_drop _ b).symm, ?_, ?_, ?_, ?_⟩)
      · rw [hlen]; unfold minFrame; omega
      · rw [headerGood_take b _ (by omega), hh]
      · rw [hlen]
        have e : f + 3 - 3 = f := by omega
        rw [e]
        simpa [PairAt, List.getElem?_take] using hp
      · cases hv : verify (b.take (f + 3)) with
        | true => rw [hv] at he; exact .inl ⟨rfl, he⟩
        | false => rw [hv] at he; exact .inr ⟨rfl, he⟩

/-! ### The correlation check -/

/-- A verified frame is unsolicited, mismatched or READY. -/
theorem deliver_cases (x : Bytes) (s : State) :
    (s.corrEn = true ∧ s.armed = false ∧ deliver x s = respond (.invUnsolicited x) s) ∨
    (s.corrEn = true ∧ s.armed = true ∧ byteAt x 4 ≠ s.expect ∧
      deliver x s = respond (.invMismatch x) (disarm s)) ∨
    ((s.corrEn = false ∨ (s.armed = true ∧ byteAt x 4 = s.expect)) ∧
      deliver x s = respond (readyOf x) (disarm s)) := by
  unfold deliver
  by_cases he : byteAt x 4 = s.expect <;> cases s.corrEn <;> cases s.armed <;> simp [he]

/-! ### RX_FEED -/

theorem feed_full (cap : Nat) (chunk : Bytes) (s : State) (h : cap < s.rxbuf.length + chunk.length) :
    feed cap chunk s = turnAway .full s := by simp [feed, h]

/-- A chunk that fits: what RX_FEED does is settled by one evaluation. -/
theorem feed_of_evaluate (cap : Nat) (chunk : Bytes) (s : State)
    (h : s.rxbuf.length + chunk.length ≤ cap) (ev : Event) (rest : Bytes)
    (he : evaluate (s.rxbuf ++ chunk) = (ev, rest)) :
    feed cap chunk s = report ev { s with rxbuf := rest } := by
  simp only [feed, Nat.not_lt.2 h, if_false, he]

/-- Everything RX_FEED can do. -/
theorem feed_cases (cap : Nat) (chunk : Bytes) (s : State) :
    (cap < s.rxbuf.length + chunk.length ∧ feed cap chunk s = turnAway .full s) ∨
    (s.rxbuf.length + chunk.length ≤ cap ∧
      ((feed cap chunk s = respond .incomplete { s with rxbuf := s.rxbuf ++ chunk }) ∨
       (minFrame ≤ (s.rxbuf ++ chunk).length ∧ headerGood (s.rxbuf ++ chunk) = false ∧
         feed cap chunk s = respond (.invHeader (s.rxbuf ++ chunk)) (disarm { s with rxbuf := [] })) ∨
       (∃ x rest, s.rxbuf ++ chunk = x ++ rest ∧ minFrame ≤ x.length ∧ headerGood x = true ∧
         PairAt x (x.length - 3) ∧
         ((verify x = true ∧ feed cap chunk s = deliver x { s with rxbuf := rest }) ∨
          (verify x = false ∧
            feed cap chunk s = respond (.invChecksum x) (disarm { s with rxbuf := rest })))))) := by
  by_cases h : cap < s.rxbuf.length + chunk.length
  · exact .inl ⟨h, feed_full cap chunk s h⟩
  refine .inr ⟨Nat.not_lt.1 h, ?_⟩
  have hf := feed_of_evaluate cap chunk s (Nat.not_lt.1 h)
  rcases evaluate_cases (s.rxbuf ++ chunk) with he | ⟨h8, hh, he⟩ | ⟨x, rest, hb, h8, hh, hp, hv⟩
  · exact .inl (hf _ _ he)
  · exact .inr (.inl ⟨h8, hh, hf _ _ he⟩)
  · refine .inr (.inr ⟨x, rest, hb, h8, hh, hp, ?_⟩)
    rcases hv with ⟨hv, he⟩ | ⟨hv, he⟩
    · exact .inl ⟨hv, hf _ _ he⟩
    · exact .inr ⟨hv, hf _ _ he⟩

end Sys2Proof.Machine
end

