-- ==== Sys2Proof/Laws/Inputs.lean ====
section
/-! SUPPORT. What a step can do with each kind of input: one lemma per shared operation of
Machine/Inputs.lean. -/

namespace Sys2Proof.Machine

/-- A step takes the oldest input. -/
theorem step_cons (s : State) (i : Input) (rest : List Input) (h : s.input = i :: rest) :
    step s = takeInput i { s with input := rest } := by simp [step, takeNext, h]

/-- A step with no input waits. -/
theorem step_idle (s : State) (h : s.input = []) : step s = .next s := by simp [step, takeNext, h]

/-- No instruction's meaning faults or refuses, and none touches the input queue. -/
theorem exec_next (i : Instr) (s : State) : ∃ t, exec i s = .next t ∧ t.input = s.input := by
  have hsend : ∀ m c p, (buildAndSend m c p s).input = s.input := by
    intro m c p
    rcases buildAndSend_cases m c p s with ⟨-, -, e⟩ | ⟨-, e⟩ <;> rw [e] <;> simp
  have hfeed : ∀ chunk, (feed Config.rxBufBytes chunk s).input = s.input := by
    intro chunk
    rcases feed_cases Config.rxBufBytes chunk s with
      ⟨-, e⟩ | ⟨-, e | ⟨-, -, e⟩ | ⟨x, rest, -, -, -, -, ⟨-, e⟩ | ⟨-, e⟩⟩⟩ <;> rw [e] <;> try simp
    rcases deliver_cases x { s with rxbuf := rest } with ⟨-, -, e'⟩ | ⟨-, -, -, e'⟩ | ⟨-, e'⟩ <;>
      rw [e'] <;> simp
  cases i with
  | reset => exact ⟨_, rfl, rfl⟩
  | ckCompute _ => exact ⟨_, rfl, rfl⟩
  | ckVerify _ => exact ⟨_, rfl, rfl⟩
  | txBuild m c p => exact ⟨_, rfl, hsend m c p⟩
  | rxFeed chunk => exact ⟨_, rfl, hfeed chunk⟩
  | rxFlush => exact ⟨_, rfl, rfl⟩
  | rxDisarm => exact ⟨_, rfl, rfl⟩
  | regRead a => simp only [exec, execRegRead]; split <;> exact ⟨_, rfl, rfl⟩
  | regWrite a v =>
    rcases writeReg_cases a v s with ⟨-, e⟩ | ⟨-, e⟩ <;> simp only [exec, execRegWrite, e] <;>
      exact ⟨_, rfl, rfl⟩
  | reservedOpcode _ => exact ⟨_, rfl, rfl⟩
  | frameRequest m c p => exact ⟨_, rfl, hsend m c p⟩
  | frameResponseAck m st c d => exact ⟨_, rfl, hfeed _⟩
  | frameResponseNak m st c d => exact ⟨_, rfl, hfeed _⟩

/-- A token runs the instruction it decodes to, or has the wrong length and is answered ILLEGAL. -/
theorem performToken_cases (t : Bytes) (s : State) :
    (∃ i, decode .cmd t = .ok i ∧ performToken t s = exec i s) ∨
    (decode .cmd t = .error .badLength ∧ performToken t s = .next (turnAway .illegal s)) := by
  unfold performToken
  cases h : decode .cmd t with
  | ok i => exact .inl ⟨i, rfl, rfl⟩
  | error e => exact .inr ⟨by rw [decodeToken_error t e h], rfl⟩

/-- Performing a token answers a next state and leaves the other inputs. -/
theorem performToken_next (t : Bytes) (s : State) : ∃ u, performToken t s = .next u ∧ u.input = s.input := by
  rcases performToken_cases t s with ⟨i, -, e⟩ | ⟨-, e⟩ <;> rw [e]
  · exact exec_next i s
  · exact ⟨_, rfl, rfl⟩

/-- A wire frame runs the instruction it decodes to, or is refused by name. -/
theorem performFrame_cases (f : Bytes) (s : State) :
    (∃ i, decode .wire f = .ok i ∧ performFrame f s = exec i s) ∨
    performFrame f s = .refused .frameTooLong ∨ performFrame f s = .refused .notAWireFrame := by
  unfold performFrame
  split
  · next i h => exact .inl ⟨i, h, rfl⟩
  · exact .inr (.inl rfl)
  · exact .inr (.inr rfl)

/-- A token emits a frame exactly when it is a TX_BUILD that is not BUSY. -/
theorem emission_cases (t : Bytes) (s : State) :
    (∃ m c p, decode .cmd t = .ok (.txBuild m c p) ∧ outstanding s = false ∧
      emission t s = some (requestFrame m c p)) ∨
    ((∀ m c p, decode .cmd t = .ok (.txBuild m c p) → outstanding s = true) ∧ emission t s = none) := by
  unfold emission
  split
  · next m c p h =>
    cases ho : outstanding s with
    | false => exact .inl ⟨m, c, p, h, rfl, by simp⟩
    | true => exact .inr ⟨fun _ _ _ _ => rfl, by simp⟩
  · next hne => exact .inr ⟨fun m c p h => absurd h (hne m c p), rfl⟩

/-- RST during a token: a cut TX_BUILD, or the token wholly after or wholly before the reset. -/
theorem performCut_cases (t : Bytes) (s : State) :
    (∃ frame k, emission t s = some frame ∧ (frame ≠ [] → k < frame.length) ∧
      performCut t s = .next (resetElements (emit (frame.take k) (drawn s)))) ∨
    (emission t s = none ∧
      (performCut t s = performToken t (resetElements (drawn s)) ∨
       performCut t s = thenRst (performToken t (drawn s)))) := by
  unfold performCut
  cases h : emission t s with
  | some frame =>
    exact .inl ⟨frame, _, rfl, fun hne => Nat.mod_lt _ (List.length_pos_iff.2 hne), rfl⟩
  | none =>
    refine .inr ⟨rfl, ?_⟩
    cases Config.rstFirst s.draws
    · exact .inr rfl
    · exact .inl rfl

/-- A stalled transport stops a token that emits, and no other. -/
theorem performStalled_cases (t : Bytes) (s : State) :
    ((emission t s).isSome = true ∧ performStalled t s = .fault .transportStall) ∨
    (emission t s = none ∧ performStalled t s = performToken t s) := by
  unfold performStalled
  cases emission t s
  · exact .inr ⟨rfl, rfl⟩
  · exact .inl ⟨rfl, rfl⟩

end Sys2Proof.Machine
end

