-- ==== Sys2Proof/Laws/PerInstr.lean ====
section
/-! SUPPORT. Statements for all instructions, one lemma per constructor.

`EncodedLength`: the length of an instruction's bytes is what the length column of the opcode table
says, and a command token's required length (30_encoding R82) is its length. -/

namespace Sys2Proof.Laws

/-- The length column of the opcode table; a reserved token has its own length. -/
def lengthColumn : Instr → Nat
  | .reset => 1
  | .ckCompute bytes => 3 + bytes.length
  | .ckVerify frame => 3 + frame.length
  | .txBuild _ _ payload => 6 + payload.length
  | .rxFeed chunk => 3 + chunk.length
  | .rxFlush => 1
  | .rxDisarm => 1
  | .regRead _ => 2
  | .regWrite _ _ => 3
  | .reservedOpcode token => token.length
  | .frameRequest _ _ payload => 7 + payload.length
  | .frameResponseAck _ _ _ data => 8 + data.length
  | .frameResponseNak _ _ _ data => 8 + data.length

/-- The encoding's length is the table's, and the required length of a command token with a defined
opcode is that length. -/
def EncodedLength.Statement (i : Instr) : Prop :=
  i.wf = true → (encode i).length = lengthColumn i ∧
    (i.port = .cmd → isReserved (encode i) = false → requiredLength (encode i) = some (lengthColumn i))

/-- A TL token's required length is its length. -/
theorem requiredLength_TL (op : Byte) (bs : Bytes) (h : bs.length ≤ maxTL)
    (ho : op = opCkCompute ∨ op = opCkVerify ∨ op = opRxFeed) :
    requiredLength (op :: be16 bs.length ++ bs) = some (3 + bs.length) := by
  rcases ho with rfl | rfl | rfl <;>
    simp [requiredLength, be16, u16_hi8_lo8 _ h, opCkCompute, opCkVerify, opRxFeed, opReset, opRxFlush,
      opRxDisarm]

theorem EncodedLength.reset : EncodedLength.Statement .reset := fun _ => ⟨rfl, fun _ _ => rfl⟩

theorem EncodedLength.ckCompute (bytes : Bytes) : EncodedLength.Statement (.ckCompute bytes) :=
  fun h => ⟨by simp [encode, lengthColumn]; omega,
    fun _ _ => requiredLength_TL _ _ (of_decide_eq_true h) (.inl rfl)⟩

theorem EncodedLength.ckVerify (frame : Bytes) : EncodedLength.Statement (.ckVerify frame) :=
  fun h => ⟨by simp [encode, lengthColumn]; omega,
    fun _ _ => requiredLength_TL _ _ (of_decide_eq_true h) (.inr (.inl rfl))⟩

theorem EncodedLength.txBuild (m c : Byte) (payload : Bytes) :
    EncodedLength.Statement (.txBuild m c payload) :=
  fun h => ⟨by simp [encode, lengthColumn]; omega, fun _ _ => by
    have hl : payload.length ≤ maxTX := of_decide_eq_true h
    simp [encode, lengthColumn, requiredLength, be24, u24_be24 _ hl, opTxBuild, opCkCompute, opCkVerify,
      opRxFeed, opReset, opRxFlush, opRxDisarm]⟩

theorem EncodedLength.rxFeed (chunk : Bytes) : EncodedLength.Statement (.rxFeed chunk) :=
  fun h => ⟨by simp [encode, lengthColumn]; omega,
    fun _ _ => requiredLength_TL _ _ (of_decide_eq_true h) (.inr (.inr rfl))⟩

theorem EncodedLength.rxFlush : EncodedLength.Statement .rxFlush := fun _ => ⟨rfl, fun _ _ => rfl⟩

theorem EncodedLength.rxDisarm : EncodedLength.Statement .rxDisarm := fun _ => ⟨rfl, fun _ _ => rfl⟩

theorem EncodedLength.regRead (addr : Byte) : EncodedLength.Statement (.regRead addr) :=
  fun _ => ⟨rfl, fun _ _ => rfl⟩

theorem EncodedLength.regWrite (addr value : Byte) : EncodedLength.Statement (.regWrite addr value) :=
  fun _ => ⟨rfl, fun _ _ => rfl⟩

theorem EncodedLength.reservedOpcode (token : Bytes) : EncodedLength.Statement (.reservedOpcode token) :=
  fun h => ⟨rfl, fun _ hr => absurd (h.symm.trans hr) (by decide)⟩

theorem EncodedLength.frameRequest (m c : Byte) (payload : Bytes) :
    EncodedLength.Statement (.frameRequest m c payload) :=
  fun _ => ⟨by simp [encode, lengthColumn]; omega, fun h => absurd h (by simp [Instr.port])⟩

theorem EncodedLength.frameResponseAck (m st c : Byte) (data : Bytes) :
    EncodedLength.Statement (.frameResponseAck m st c data) :=
  fun _ => ⟨by simp [encode, lengthColumn]; omega, fun h => absurd h (by simp [Instr.port])⟩

theorem EncodedLength.frameResponseNak (m st c : Byte) (data : Bytes) :
    EncodedLength.Statement (.frameResponseNak m st c data) :=
  fun _ => ⟨by simp [encode, lengthColumn]; omega, fun h => absurd h (by simp [Instr.port])⟩

end Sys2Proof.Laws
end

