-- ==== Sys2Proof/Tests/Slice0.lean ====
section
/-! SUPPORT. Tests of one step each, with their expected results taken from spec/95_test_vectors.md and
spec/30_encoding.md, and for every obligation that has hypotheses a witness that meets them. -/

namespace Sys2Proof.Tests

open Sys2Proof Sys2Proof.Machine

/-! ### Helpers: the start states of 95_test_vectors.md, and what an outcome holds -/

/-- `C0`: reset, then correlation off. -/
def c0 : State := { State.reset with corrEn := false }
/-- `A(c)`: reset, then a request with command id `c` outstanding. -/
def armedFor (c : Byte) : State := { State.reset with armed := true, expect := c }
/-- Reset, then one input offered. -/
def offered (i : Input) : State := { State.reset with input := [i] }
/-- The state of an outcome. -/
def nextOf : Host.Outcome State Fault Refusal → Option State
  | .next s => some s
  | _ => none
/-- The response tokens and the sent bytes after an instruction. -/
def ports (i : Instr) (s : State) : Option (List Bytes × Bytes) :=
  (nextOf (exec i s)).map fun t => (t.resp, t.txout)
/-- The four architectural elements after an instruction. -/
def elements (i : Instr) (s : State) : Option (Bytes × Bool × Byte × Bool) :=
  (nextOf (exec i s)).map fun t => (t.rxbuf, t.armed, t.expect, t.corrEn)

/-! ### WellFormed refuses each ill-formed term (30_encoding R82, R84) -/

theorem test_wf_ckCompute (x : Bytes) (h : x.length = 65536) : (Instr.ckCompute x).wf = false := by
  simp [Instr.wf, maxTL, h]
theorem test_wf_ckVerify (x : Bytes) (h : x.length = 65536) : (Instr.ckVerify x).wf = false := by
  simp [Instr.wf, maxTL, h]
theorem test_wf_txBuild (m c : Byte) (x : Bytes) (h : x.length = 16777216) :
    (Instr.txBuild m c x).wf = false := by simp [Instr.wf, maxTX, h]
theorem test_wf_rxFeed (x : Bytes) (h : x.length = 65536) : (Instr.rxFeed x).wf = false := by
  simp [Instr.wf, maxTL, h]
theorem test_wf_reservedOpcode : (Instr.reservedOpcode [0x01]).wf = false := by decide
theorem test_wf_frameRequest (m c : Byte) (x : Bytes) (h : x.length = 16777216) :
    (Instr.frameRequest m c x).wf = false := by simp [Instr.wf, maxTX, h]
theorem test_wf_frameResponseAck (m st c : Byte) (x : Bytes) (h : x.length = 65528) :
    (Instr.frameResponseAck m st c x).wf = false := by simp [Instr.wf, maxTL, h]
theorem test_wf_frameResponseNak (m st c : Byte) (x : Bytes) (h : x.length = 65528) :
    (Instr.frameResponseNak m st c x).wf = false := by simp [Instr.wf, maxTL, h]

/-! ### Decoding: words written out from 30_encoding R70, R71, R81, R82 and 95_test_vectors.md -/

theorem test_decode_reset : (decode .cmd [0x01]).toOption = some .reset := by decide
theorem test_decode_ckCompute : (decode .cmd [0x08, 0x00, 0x06, 0x1B, 0x02, 0x77, 0x11, 0x1B, 0x03]).toOption =
    some (.ckCompute [0x1B, 0x02, 0x77, 0x11, 0x1B, 0x03]) := by decide
theorem test_decode_ckVerify : (decode .cmd [0x09, 0x00, 0x02, 0x80, 0x80]).toOption =
    some (.ckVerify [0x80, 0x80]) := by decide
theorem test_decode_txBuild : (decode .cmd [0x10, 0xFF, 0xFD, 0x00, 0x00, 0x03, 0x01, 0x02, 0x03]).toOption =
    some (.txBuild 0xFF 0xFD [0x01, 0x02, 0x03]) := by decide
theorem test_decode_rxFeed : (decode .cmd [0x20, 0x00, 0x08, 0x1B, 0x06, 0x77, 0x00, 0x11, 0x1B, 0x03, 0x39]).toOption =
    some (.rxFeed [0x1B, 0x06, 0x77, 0x00, 0x11, 0x1B, 0x03, 0x39]) := by decide
theorem test_decode_rxFlush : (decode .cmd [0x21]).toOption = some .rxFlush := by decide
theorem test_decode_rxDisarm : (decode .cmd [0x22]).toOption = some .rxDisarm := by decide
theorem test_decode_regRead : (decode .cmd [0x30, 0x01]).toOption = some (.regRead 0x01) := by decide
theorem test_decode_regWrite : (decode .cmd [0x31, 0x00, 0xFE]).toOption = some (.regWrite 0x00 0xFE) := by decide
theorem test_decode_reserved : (decode .cmd [0xFF, 0x12, 0x34]).toOption =
    some (.reservedOpcode [0xFF, 0x12, 0x34]) := by decide
theorem test_decode_empty : (decode .cmd []).toOption = some (.reservedOpcode []) := by decide
theorem test_decode_frameRequest : (decode .wire [0x1B, 0x02, 0x77, 0x11, 0x1B, 0x03, 0x3D]).toOption =
    some (.frameRequest 0x77 0x11 []) := by decide
theorem test_decode_frameResponseAck :
    (decode .wire [0x1B, 0x06, 0x01, 0x00, 0x13, 0xAA, 0x55, 0x1B, 0x03, 0xAE]).toOption =
    some (.frameResponseAck 0x01 0x00 0x13 [0xAA, 0x55]) := by decide
theorem test_decode_frameResponseNak : (decode .wire [0x1B, 0x15, 0x77, 0x01, 0x11, 0x1B, 0x03, 0x29]).toOption =
    some (.frameResponseNak 0x77 0x01 0x11 []) := by decide
/-- 95 CK9, CK10, TB13, TB14, FL3, CT12, CT18: the wrong length. -/
theorem test_decode_badLength :
    [[0x08, 0x00, 0x02, 0x01], [0x08, 0x00], [0x10, 0x77, 0x11, 0x00, 0x00, 0x01], [0x10, 0x77, 0x11, 0x00, 0x00],
      [0x21, 0x00], [0x30], [0x31, 0x00]].all (fun t : Bytes => decide (decode .cmd t = .error .badLength)) = true := by
  decide
/-- A frame with a wrong checksum, and a frame of no kind (30_encoding R75). -/
theorem test_decode_notAWireFrame :
    decode .wire [0x1B, 0x02, 0x77, 0x11, 0x1B, 0x03, 0x3E] = .error .notAWireFrame ∧
    decode .wire [0x1B, 0x04, 0x77, 0x00, 0x11, 0x1B, 0x03, 0x3B] = .error .notAWireFrame := by decide

/-! ### The words of the opcode table -/

/-- The values of 00_scope R10, and the wire rows of the opcode table made of them. -/
theorem test_named_bytes :
    (ESC = 0x1B ∧ STX = 0x02 ∧ ETX = 0x03 ∧ ACK = 0x06 ∧ NAK = 0x15) ∧
    u16 ESC STX = 0x1B02 ∧ u16 ESC ACK = 0x1B06 ∧ u16 ESC NAK = 0x1B15 := by decide

theorem test_table_tokens :
    decodeTableWord 8 0x01 = some .reset ∧ decodeTableWord 8 0x08 = some (.ckCompute []) ∧
    decodeTableWord 8 0x09 = some (.ckVerify []) ∧ decodeTableWord 8 0x10 = some (.txBuild 0 0 []) ∧
    decodeTableWord 8 0x20 = some (.rxFeed []) ∧ decodeTableWord 8 0x21 = some .rxFlush ∧
    decodeTableWord 8 0x22 = some .rxDisarm ∧ decodeTableWord 8 0x30 = some (.regRead 0) ∧
    decodeTableWord 8 0x31 = some (.regWrite 0 0) ∧
    decodeTableWord 8 0x00 = some (.reservedOpcode [0x00]) := by decide
theorem test_table_frames :
    decodeTableWord 16 0x1B02 = some (.frameRequest 0 0 []) ∧
    decodeTableWord 16 0x1B06 = some (.frameResponseAck 0 0 0 []) ∧
    decodeTableWord 16 0x1B15 = some (.frameResponseNak 0 0 0 []) := by decide
/-- The step takes the placed word as its first instruction: the tokens of 95 TB3. -/
theorem test_withFetchWord :
    (nextOf (step (State.reset.withFetchWord 8 0x10))).map (fun t => (t.resp, t.txout)) =
      some ([[0x00]], [0x1B, 0x02, 0x00, 0x00, 0x1B, 0x03, 0xC5]) := by decide

/-! ### Meanings: vectors of 95_test_vectors.md, section 2 -/

/-- CT1. -/
theorem test_reset : elements .reset { armedFor 0x11 with rxbuf := [0x1B, 0x06, 0x77] } =
    some ([], false, 0x00, true) := by decide
/-- CK6 and CK5. -/
theorem test_ckCompute : ports (.ckCompute [1, 2, 3, 4, 5, 6, 7, 8, 9, 10]) .reset = some ([[0x00, 0xC9]], []) ∧
    ports (.ckCompute [0x80, 0x80]) .reset = some ([[0x00, 0x00]], []) := by decide
/-- VF4 and VF5. -/
theorem test_ckVerify :
    ports (.ckVerify [0x1B, 0x02, 0x77, 0x11, 0x1B, 0x03, 0x3D]) .reset = some ([[0x00, 0x01]], []) ∧
    ports (.ckVerify [0x1B, 0x02, 0x77, 0x11, 0x1B, 0x03, 0x3E]) .reset = some ([[0x00, 0x00]], []) := by decide
/-- VF1. -/
theorem test_ckVerify_empty : ports (.ckVerify []) .reset = some ([[0x00, 0x00]], []) := by decide
/-- TB1 and TB2. -/
theorem test_txBuild :
    ports (.txBuild 0x77 0x11 []) .reset = some ([[0x00]], [0x1B, 0x02, 0x77, 0x11, 0x1B, 0x03, 0x3D]) ∧
    elements (.txBuild 0x77 0x11 []) .reset = some ([], true, 0x11, true) ∧
    ports (.txBuild 0x77 0x12 []) (armedFor 0x11) = some ([[0x02]], []) := by decide
/-- TB5 and TB4: no stuffing, no arming without correlation. -/
theorem test_txBuild_bare :
    ports (.txBuild 0x77 0x1C [0x1B, 0x03]) c0 =
      some ([[0x00]], [0x1B, 0x02, 0x77, 0x1C, 0x1B, 0x03, 0x1B, 0x03, 0x14]) ∧
    elements (.txBuild 0xFF 0xFD [0x01, 0x02, 0x03]) c0 = some ([], false, 0x00, false) := by decide
/-- RX1, RX7 and RX8. -/
theorem test_rxFeed :
    ports (.rxFeed [0x1B, 0x06, 0x77, 0x00, 0x11, 0x1B, 0x03, 0x39]) (armedFor 0x11) =
      some ([[0x11, 0x06, 0x77, 0x00, 0x11, 0x03, 0x00, 0x00]], []) ∧
    ports (.rxFeed [0x1B, 0x06, 0x77, 0x00, 0x11, 0x1B, 0x03, 0x39]) .reset =
      some ([[0x23, 0x00, 0x08, 0x1B, 0x06, 0x77, 0x00, 0x11, 0x1B, 0x03, 0x39]], []) ∧
    ports (.rxFeed [0x1B, 0x06, 0x77, 0x00, 0x12, 0x1B, 0x03, 0x38]) (armedFor 0x11) =
      some ([[0x22, 0x00, 0x08, 0x1B, 0x06, 0x77, 0x00, 0x12, 0x1B, 0x03, 0x38]], []) := by decide
/-- P5 steps 2 and 3, RX_BUF_BYTES = 4096: a cut data field, then a bad header. -/
theorem test_rxFeed_cut :
    let s := feed 4096 [0x1B, 0x06, 0x77, 0x00, 0x11, 0x1B, 0x03, 0x44, 0x1B, 0x03, 0xD7] c0
    s.resp = [[0x21, 0x00, 0x08, 0x1B, 0x06, 0x77, 0x00, 0x11, 0x1B, 0x03, 0x44]] ∧
    s.rxbuf = [0x1B, 0x03, 0xD7] ∧
    (feed 4096 [0x1B, 0x06, 0x77, 0x00, 0x11] s).resp.getLast? =
      some [0x20, 0x00, 0x08, 0x1B, 0x03, 0xD7, 0x1B, 0x06, 0x77, 0x00, 0x11] := by decide
/-- FL1. -/
theorem test_rxFlush : elements .rxFlush { State.reset with rxbuf := [0x1B, 0x06] } =
    some ([], false, 0x00, true) := by decide
/-- DA1. -/
theorem test_rxDisarm : elements .rxDisarm (armedFor 0x11) = some ([], false, 0x11, true) := by decide
/-- CT8 to CT11. -/
theorem test_regRead :
    ports (.regRead 0x02) (armedFor 0x11) = some ([[0x00, 0x11]], []) ∧
    ports (.regRead 0x01) { State.reset with rxbuf := [0x1B, 0x06] } = some ([[0x00, 0x02]], []) ∧
    ports (.regRead 0x00) .reset = some ([[0x00, 0x01]], []) ∧
    ports (.regRead 0x05) .reset = some ([[0x01]], []) := by decide
/-- CT13, CT15 and CT16. -/
theorem test_regWrite :
    elements (.regWrite 0x00 0x00) (armedFor 0x11) = some ([], false, 0x11, false) ∧
    elements (.regWrite 0x00 0xFF) c0 = some ([], false, 0x00, true) ∧
    ports (.regWrite 0x01 0x00) .reset = some ([[0x01]], []) := by decide
/-- CT7. -/
theorem test_reservedOpcode : ports (.reservedOpcode [0x11]) .reset = some ([[0x01]], []) := by decide
/-- TB1's frame. -/
theorem test_frameRequest : ports (.frameRequest 0x77 0x11 []) .reset =
    some ([[0x00]], [0x1B, 0x02, 0x77, 0x11, 0x1B, 0x03, 0x3D]) := by decide
/-- RX3's frame. -/
theorem test_frameResponseAck : ports (.frameResponseAck 0x77 0x11 0x11 []) (armedFor 0x11) =
    some ([[0x11, 0x06, 0x77, 0x11, 0x11, 0x02, 0x00, 0x00]], []) := by decide
/-- RX2's frame. -/
theorem test_frameResponseNak : ports (.frameResponseNak 0x77 0x01 0x11 []) (armedFor 0x11) =
    some ([[0x11, 0x15, 0x77, 0x01, 0x11, 0x02, 0x00, 0x00]], []) := by decide
/-- CT6: the empty token, from the port. -/
theorem test_step_empty : (nextOf (step (offered (.token [])))).map (·.resp) = some [[0x01]] := by decide
/-- 95 P1 line 2, P4 line 9, P3 line 3, in the syntax of 30_encoding R95 and R96. -/
theorem test_assemble :
    assemble "START 0x77 ; begin".toList = some [[0x10, 0x77, 0x11, 0x00, 0x00, 0x00]] ∧
    assemble "REG_READ EXPECT".toList = some [[0x30, 0x02]] ∧
    assemble "RX_FEED [0x1B, 3, 0x39]".toList = some [[0x20, 0x00, 0x03, 0x1B, 0x03, 0x39]] ∧
    assemble "RX_ABORT".toList = some [[0x21], [0x22]] ∧
    assemble "RX_FEED [256]".toList = none := by decide
/-- 60_exceptions R202 and R215. -/
theorem test_hostView :
    sourceError (.ready 0x06 0x77 0x42 0x1C 0x02 []) = some .deviceError ∧
    sourceError (.invUnsolicited []) = some .protocolError ∧
    hostSuccess (.ready 0x15 0x77 0x00 0x11 0x03 []) = false ∧
    hostSuccess (.ready 0x06 0x77 0x00 0x11 0x03 []) = true := by decide

/-! ### Witnesses: for every obligation with hypotheses, values that meet them -/

/-- A response frame with no data, of 95 RX1. -/
def rx1 : Bytes := [0x1B, 0x06, 0x77, 0x00, 0x11, 0x1B, 0x03, 0x39]

/-- A buffer at its capacity with a good header and no footer. -/
def stuck : State :=
  { State.reset with rxbuf := [0x1B, 0x06] ++ List.replicate (Config.rxBufBytes - 2) 0x00 }

theorem stuck_length : stuck.rxbuf.length = Config.rxBufBytes := by
  have := rxBufBytes_bounds
  simp [stuck]; omega

theorem witness_ResetLeavesSpecValues : (offered .rst).input = .rst :: [] := rfl

/-- Formats T0, TL, TX, TA, TAV and AnswersIllegal, for every command statement: a token offered, and
the lengths at both sides of each boundary. -/
theorem witness_formats :
    (offered (.token [0x01, 0x00])).input = .token [0x01, 0x00] :: [] ∧
    ([] : Bytes).length = (0x00 : Byte).toNat * 256 + (0x00 : Byte).toNat ∧
    ([0x05] : Bytes).length ≠ (0x00 : Byte).toNat * 256 + (0x00 : Byte).toNat ∧
    ([] : Bytes).length = (0x00 : Byte).toNat * 65536 + (0x00 : Byte).toNat * 256 + (0x00 : Byte).toNat ∧
    ([0x05] : Bytes).length ≠ (0x00 : Byte).toNat * 65536 + (0x00 : Byte).toNat * 256 + (0x00 : Byte).toNat ∧
    ([0x77, 0x11, 0x00, 0x00] : Bytes).length < 5 ∧ ([] : Bytes).length < 5 := by decide

theorem witness_RstTakesEffectBetweenCommands :
    (offered .rst).input = .rst :: [] ∧
    (offered (.rstDuring [0x10, 0x77, 0x11, 0, 0, 0])).input = .rstDuring [0x10, 0x77, 0x11, 0, 0, 0] :: [] ∧
    decode .cmd [0x10, 0x77, 0x11, 0, 0, 0] = .ok (.txBuild 0x77 0x11 []) ∧
    ¬ ((offered .rst).corrEn = true ∧ (offered .rst).armed = true) ∧
    ((armedFor 0x11).corrEn = true ∧ (armedFor 0x11).armed = true) := by decide

theorem witness_RstTakesEffectBetweenCommands_other :
    ∀ m c p, decode .cmd [0x21] = .ok (.txBuild m c p) →
      (offered .rst).corrEn = true ∧ (offered .rst).armed = true := by
  intro m c p h; exact absurd (Except.ok.inj h) (by simp)

theorem witness_RstDuringTxBuildCutsTheFrame :
    ([] : Bytes).length ≤ 16777215 ∧ ¬ ((offered .rst).corrEn = true ∧ (offered .rst).armed = true) ∧
    (offered (.rstDuring ([0x10, 0x77, 0x11] ++ be24 0 ++ []))).input =
      .rstDuring ([0x10, 0x77, 0x11] ++ be24 ([] : Bytes).length ++ []) :: [] := by decide

theorem witness_VerifyIffSumIsZero : rx1 ≠ [] ∧ ([0x00] : Bytes) ≠ [] := by decide

theorem witness_EmittedFramesVerify :
    exec (.txBuild 0x77 0x11 []) .reset = .next { armedFor 0x11 with
      txout := [0x1B, 0x02, 0x77, 0x11, 0x1B, 0x03, 0x3D], resp := [[0x00]] } ∧
    [0x1B, 0x02, 0x77, 0x11, 0x1B, 0x03, 0x3D] =
      State.reset.txout ++ ([0x1B, 0x02, 0x77, 0x11, 0x1B, 0x03, 0x3D] : Bytes) ∧
    ([0x1B, 0x02, 0x77, 0x11, 0x1B, 0x03, 0x3D] : Bytes) ≠ [] := ⟨rfl, rfl, by decide⟩

theorem witness_ChecksumDetection :
    (7 < rx1.length ∧ rx1[7]? ≠ some 0x38 ∧ verify rx1 = true) ∧
    ([0x80, 0x01] : Bytes).Perm [0x01, 0x80] ∧
    (([0x01, 0x02] : Bytes) ≠ [] ∧ ([0x03] : Bytes) ≠ [] ∧
      byteSum [0x01, 0x02] % 256 = byteSum [0x03] % 256) ∧
    ([] ++ [0x05] : Bytes) ≠ [] := by decide

/-- BUSY; then each of the two ways not to be. -/
theorem witness_TxBuildCommand :
    ((armedFor 0x11).corrEn = true ∧ (armedFor 0x11).armed = true) ∧
    ¬ (State.reset.corrEn = true ∧ State.reset.armed = true) ∧
    ¬ ({ c0 with armed := true }.corrEn = true ∧ { c0 with armed := true }.armed = true) := by decide

theorem witness_EmittedFrameLayout : ¬ (c0.corrEn = true ∧ c0.armed = true) := by decide

theorem witness_TxBuildIgnoresRxbuf :
    exec (.txBuild 0x77 0x11 []) (armedFor 0x11) = .next { armedFor 0x11 with resp := [[0x02]] } := rfl

theorem witness_SecondRequestIsBusy : State.reset.corrEn = true ∧ State.reset.armed = false := by decide

/-- A chunk one byte too long, and one that just fits. -/
theorem witness_RxFeedCapacityAndAppend :
    Config.rxBufBytes < State.reset.rxbuf.length + (List.replicate (Config.rxBufBytes + 1) (0 : Byte)).length ∧
    State.reset.rxbuf.length + (List.replicate Config.rxBufBytes (0 : Byte)).length ≤ Config.rxBufBytes := by
  simp

theorem fits (s : State) (chunk : Bytes) (h : s.rxbuf.length + chunk.length ≤ 8) :
    s.rxbuf.length + chunk.length ≤ Config.rxBufBytes := by
  have := rxBufBytes_bounds; omega

/-- Seven bytes, and none. -/
theorem witness_RxFeedBelowMinimumLength :
    (State.reset.rxbuf.length + (rx1.take 7).length ≤ Config.rxBufBytes ∧
      (State.reset.rxbuf ++ rx1.take 7).length < 8) ∧
    (State.reset.rxbuf.length + ([] : Bytes).length ≤ Config.rxBufBytes ∧
      (State.reset.rxbuf ++ []).length < 8) :=
  ⟨⟨fits _ _ (by decide), by decide⟩, fits _ _ (by decide), by decide⟩

/-- 95 RX10's eight bytes. -/
theorem witness_RxFeedBadHeader :
    State.reset.rxbuf.length + ([0x00, 0x06, 0x77, 0x00, 0x11, 0x1B, 0x03, 0x39] : Bytes).length ≤
      Config.rxBufBytes ∧
    8 ≤ (State.reset.rxbuf ++ [0x00, 0x06, 0x77, 0x00, 0x11, 0x1B, 0x03, 0x39]).length ∧
    ¬ GoodHeader (State.reset.rxbuf ++ [0x00, 0x06, 0x77, 0x00, 0x11, 0x1B, 0x03, 0x39]) :=
  ⟨fits _ _ (by decide), by decide, by unfold GoodHeader; decide⟩

/-- Eight bytes: no footer at 5 or later (95 RX16); a footer whose checksum is missing; 95 RX9's bad
checksum; 95 RX1's good one. -/
theorem witness_RxFeedFooterAndChecksum :
    (∀ b : Bytes, b = [0x1B, 0x06, 0x77, 0x1B, 0x03, 0x11, 0x22, 0x33] →
      State.reset.rxbuf.length + b.length ≤ Config.rxBufBytes ∧ 8 ≤ (State.reset.rxbuf ++ b).length ∧
      GoodHeader (State.reset.rxbuf ++ b) ∧ ∀ i, 5 ≤ i → ¬ PairAt (State.reset.rxbuf ++ b) i) ∧
    (∀ b : Bytes, b = [0x1B, 0x06, 0x77, 0x00, 0x11, 0xAA, 0x1B, 0x03] →
      State.reset.rxbuf.length + b.length ≤ Config.rxBufBytes ∧ 8 ≤ (State.reset.rxbuf ++ b).length ∧
      GoodHeader (State.reset.rxbuf ++ b) ∧ LeastFooter (State.reset.rxbuf ++ b) 6 ∧
      (State.reset.rxbuf ++ b).length ≤ 6 + 2) ∧
    (∀ b : Bytes, b = [0x1B, 0x06, 0x77, 0x00, 0x12, 0x1B, 0x03, 0x39] →
      GoodHeader (State.reset.rxbuf ++ b) ∧ LeastFooter (State.reset.rxbuf ++ b) 5 ∧
      5 + 2 < (State.reset.rxbuf ++ b).length ∧ verify ((State.reset.rxbuf ++ b).take (5 + 3)) = false) ∧
    (GoodHeader (State.reset.rxbuf ++ rx1) ∧ LeastFooter (State.reset.rxbuf ++ rx1) 5 ∧
      5 + 2 < (State.reset.rxbuf ++ rx1).length ∧ verify ((State.reset.rxbuf ++ rx1).take (5 + 3)) = true) := by
  refine ⟨?_, ?_, ?_, ?_⟩
  · rintro b rfl
    exact ⟨fits _ _ (by decide), by decide, by unfold GoodHeader; decide,
      (findFooter_eq_none _).1 (by decide)⟩
  · rintro b rfl
    exact ⟨fits _ _ (by decide), by decide, by unfold GoodHeader; decide,
      (findFooter_eq_some _ _).1 (by decide), by decide⟩
  · rintro b rfl
    exact ⟨by unfold GoodHeader; decide, (findFooter_eq_some _ _).1 (by decide), by decide, by decide⟩
  · exact ⟨by unfold GoodHeader; decide, (findFooter_eq_some _ _).1 (by decide), by decide, by decide⟩

/-- One frame, and the state of each clause: unsolicited, mismatched, bare, awaited. -/
theorem witness_RxFeedCorrelatesAndReports :
    (∀ s : State, s.rxbuf = [] → s.rxbuf.length + rx1.length ≤ Config.rxBufBytes ∧
      8 ≤ (s.rxbuf ++ rx1).length ∧ GoodHeader (s.rxbuf ++ rx1) ∧ LeastFooter (s.rxbuf ++ rx1) 5 ∧
      s.rxbuf ++ rx1 = rx1 ++ [] ∧ rx1.length = 5 + 3 ∧ verify rx1 = true) ∧
    (State.reset.corrEn = true ∧ State.reset.armed = false) ∧
    ((armedFor 0x12).corrEn = true ∧ (armedFor 0x12).armed = true ∧ rx1[4]? ≠ some (armedFor 0x12).expect) ∧
    c0.corrEn = false ∧ ((armedFor 0x11).armed = true ∧ rx1[4]? = some (armedFor 0x11).expect) := by
  refine ⟨fun s h => ?_, by decide, by decide, by decide, by decide⟩
  rw [h]
  exact ⟨fits State.reset rx1 (by decide), by decide, by unfold GoodHeader; decide,
    (findFooter_eq_some _ _).1 (by decide), rfl, by decide, by decide⟩

theorem witness_ReceivingFrame :
    (∃ t, exec (.rxFeed []) .reset = .next t) ∧ (∃ t, exec (.frameResponseAck 0x77 0 0x11 []) .reset = .next t) ∧
    ∃ t, exec (.frameResponseNak 0x77 0 0x11 []) .reset = .next t := ⟨⟨_, rfl⟩, ⟨_, rfl⟩, _, rfl⟩

/-- 95 P3: two frames in one chunk. -/
theorem witness_OneFramePerFeedAndDrain :
    ResponseKind 0x06 ∧ pairFree [] = true ∧ pairFree [0xAA, 0x55] = true ∧ c0.corrEn = false ∧
    c0.rxbuf.length + (rx1 ++ [0x1B, 0x06, 0x77, 0x00, 0x13, 0xAA, 0x55, 0x1B, 0x03, 0x38]).length ≤ 4096 ∧
    c0.rxbuf ++ (rx1 ++ [0x1B, 0x06, 0x77, 0x00, 0x13, 0xAA, 0x55, 0x1B, 0x03, 0x38]) =
      responseFrame 0x06 0x77 0x00 0x11 [] ++ responseFrame 0x06 0x77 0x00 0x13 [0xAA, 0x55] := by
  unfold ResponseKind; decide

/-- One chunk; several, an inner one empty. -/
theorem witness_ChunkingKeepsAValidFrame :
    ResponseKind 0x06 ∧ pairFree [] = true ∧ State.reset.rxbuf = [] ∧
    (responseFrame 0x06 0x77 0x00 0x11 []).length ≤ Config.rxBufBytes ∧
    ([0x1B, 0x03, 0x39] : Bytes) ≠ [] ∧
    ([[0x1B, 0x06, 0x77], [], [0x00, 0x11]] ++ [[0x1B, 0x03, 0x39]]).flatten = responseFrame 0x06 0x77 0x00 0x11 [] ∧
    ([] ++ [rx1]).flatten = responseFrame 0x06 0x77 0x00 0x11 [] :=
  ⟨.inl rfl, by decide, rfl, fits State.reset rx1 (by decide), by decide, by decide, by decide⟩

theorem witness_ChunkingChangesABadHeader : (0x00 : Byte) ≠ 0x1B ∧ State.reset.rxbuf = [] ∧ 20 ≤ 20 := by decide

/-- An echoed request of one payload byte. -/
theorem witness_EchoedRequestIsRejected :
    (State.reset.rxbuf.length + (requestFrame 0x77 0x11 [0x00]).length ≤ Config.rxBufBytes ∧
      8 ≤ (State.reset.rxbuf ++ requestFrame 0x77 0x11 [0x00]).length ∧
      (State.reset.rxbuf ++ requestFrame 0x77 0x11 [0x00])[1]? ≠ some 0x06 ∧
      (State.reset.rxbuf ++ requestFrame 0x77 0x11 [0x00])[1]? ≠ some 0x15) ∧
    ([0x00] : Bytes) ≠ [] ∧ State.reset.rxbuf = [] ∧ ([0x00] : Bytes).length + 7 ≤ Config.rxBufBytes :=
  ⟨⟨fits _ _ (by decide), by decide, by decide, by decide⟩, by decide, rfl,
    fits State.reset rx1 (by decide)⟩

/-- 95 P5, and a frame whose cut is a false READY. -/
theorem witness_FooterPairInDataCutsTheFrame :
    ResponseKind 0x06 ∧ pairFree [] = true ∧ c0.corrEn = false ∧ c0.rxbuf = [] ∧
    (responseFrame 0x06 0x77 0x00 0x11 ([] ++ [0x1B, 0x03] ++ [0x44])).length ≤ 4096 ∧
    (responseFrame 0x06 0x77 0x00 0x11 ([] ++ [0x1B, 0x03] ++ [0x39])).length ≤ 4096 ∧
    (responseFrame 0x06 0x77 0x00 0x11 ([] ++ [0x1B, 0x03] ++ [0x39]))[0 + 7]? =
      some (ck ((responseFrame 0x06 0x77 0x00 0x11 ([] ++ [0x1B, 0x03] ++ [0x39])).take (0 + 7))) := by
  unfold ResponseKind; decide

theorem witness_FullBufferStaysFull :
    stuck.rxbuf.length = Config.rxBufBytes ∧ GoodHeader stuck.rxbuf ∧ ∀ i, 5 ≤ i → ¬ PairAt stuck.rxbuf i := by
  refine ⟨stuck_length, ⟨rfl, .inl rfl⟩, fun i h5 hp => ?_⟩
  have := List.mem_of_getElem? (l := List.replicate (Config.rxBufBytes - 2) (0x00 : Byte)) (i := i - 2) (a := ESC)
    (by
      rw [← hp.1]
      obtain ⟨j, rfl⟩ : ∃ j, i = j + 2 := ⟨i - 2, by omega⟩
      simp [stuck])
  exact absurd (List.eq_of_mem_replicate this) (by decide)

theorem witness_LateResponseAfterDisarm :
    ResponseKind 0x06 ∧ pairFree [] = true ∧ (armedFor 0x11).corrEn = true ∧ (armedFor 0x11).armed = true ∧
    (armedFor 0x11).expect = 0x11 ∧ (armedFor 0x11).rxbuf = [] ∧
    (responseFrame 0x06 0x77 0x00 0x11 []).length ≤ Config.rxBufBytes :=
  ⟨.inl rfl, by decide, rfl, rfl, rfl, rfl, fits State.reset rx1 (by decide)⟩

/-- Seven bytes; a carried-over frame; a full buffer. -/
theorem witness_RxbufClasses :
    ({ State.reset with rxbuf := rx1.take 7 }.rxbuf.length ≤ Config.rxBufBytes) ∧
    ({ State.reset with rxbuf := rx1 }.rxbuf.length ≤ Config.rxBufBytes ∧ rxClass rx1 = .pending) ∧
    stuck.rxbuf.length ≤ Config.rxBufBytes :=
  ⟨fits State.reset (rx1.take 7) (by decide), ⟨fits State.reset rx1 (by decide), by decide⟩,
    stuck_length.le⟩

theorem witness_RegReadCommand : 0x05 ≤ (0x05 : Byte).toNat ∧ 0x05 ≤ (0xFF : Byte).toNat := by decide

theorem witness_RegWriteCommand : (0x01 : Byte) ≠ 0x00 ∧ (0xFF : Byte) ≠ 0x00 := by decide

theorem witness_ReservedTokensAreIllegal :
    (0x00 : Byte) ∉ ([0x01, 0x08, 0x09, 0x10, 0x20, 0x21, 0x22, 0x30, 0x31] : Bytes) ∧
    (0x32 : Byte) ∉ ([0x01, 0x08, 0x09, 0x10, 0x20, 0x21, 0x22, 0x30, 0x31] : Bytes) ∧
    (0xFF : Byte) ∉ ([0x01, 0x08, 0x09, 0x10, 0x20, 0x21, 0x22, 0x30, 0x31] : Bytes) := by decide

/-- One byte too many, no length field, and the right length. -/
theorem witness_WrongLengthIsIllegal :
    (0x08 : Byte) ∈ ([0x01, 0x08, 0x09, 0x10, 0x20, 0x21, 0x22, 0x30, 0x31] : Bytes) ∧
    requiredLength [0x08, 0x00, 0x00, 0x05] ≠ some ([0x08, 0x00, 0x00, 0x05] : Bytes).length ∧
    requiredLength [0x08, 0x00] ≠ some ([0x08, 0x00] : Bytes).length ∧
    requiredLength [0x08, 0x00, 0x00] = some ([0x08, 0x00, 0x00] : Bytes).length := by decide

/-- ILLEGAL, BUSY and FULL, each from a token. -/
theorem witness_RejectedCommandsChangeNothing :
    step (offered (.token [0x00])) = .next { State.reset with resp := [[0x01]] } ∧
    step { armedFor 0x11 with input := [.token [0x10, 0x77, 0x12, 0, 0, 0]] } =
      .next { armedFor 0x11 with resp := [[0x02]] } ∧
    step { stuck with input := [.token [0x20, 0x00, 0x01, 0x00]] } = .next { stuck with resp := [[0x03]] } := by
  refine ⟨rfl, rfl, ?_⟩
  have hd : decode .cmd [0x20, 0x00, 0x01, 0x00] = .ok (.rxFeed [0x00]) := by decide
  rw [step_cons _ _ [] rfl, takeInput, performToken, hd]
  have hl := stuck_length
  exact congrArg Host.Outcome.next (feed_full _ _ _ (by simp; omega))

theorem witness_OneLegalResponsePerToken :
    (offered (.token [0x21])).rxbuf.length ≤ Config.rxBufBytes ∧
    (offered (.token [0x21])).input = .token [0x21] :: [] := ⟨by simp [offered, State.reset], rfl⟩

theorem witness_ExpectWriters :
    (∃ t, exec .reset (armedFor 0x11) = .next t ∧ t.expect ≠ (armedFor 0x11).expect) ∧
    (∃ t, exec (.txBuild 0x77 0x11 []) .reset = .next t ∧ t.expect ≠ State.reset.expect) ∧
    ∃ t, exec (.frameRequest 0x77 0x11 []) .reset = .next t ∧ t.expect ≠ State.reset.expect :=
  ⟨⟨_, rfl, by decide⟩, ⟨_, rfl, by decide⟩, _, rfl, by decide⟩

theorem witness_CorrEnWriters :
    (∃ t, exec .reset c0 = .next t ∧ t.corrEn ≠ c0.corrEn) ∧
    ∃ t, exec (.regWrite 0x00 0xFE) .reset = .next t ∧ t.corrEn ≠ State.reset.corrEn :=
  ⟨⟨_, rfl, by decide⟩, _, rfl, by decide⟩

theorem witness_ArmedWriters :
    (∃ t, exec (.txBuild 0x77 0x11 []) .reset = .next t ∧ State.reset.armed = false ∧ t.armed = true) ∧
    ∀ i ∈ [Instr.reset, .rxDisarm, .regWrite 0x00 0x00, .rxFeed rx1], ∃ t,
      exec i (armedFor 0x11) = .next t ∧ (armedFor 0x11).armed = true ∧ t.armed = false := by
  refine ⟨⟨_, rfl, by decide⟩, fun i hi => ?_⟩
  simp only [List.mem_cons, List.not_mem_nil, or_false] at hi
  rcases hi with rfl | rfl | rfl | rfl <;> exact ⟨_, rfl, rfl, by decide⟩

theorem witness_RxbufAndTxoutWriters :
    (∃ t, exec (.rxFeed [0x1B]) .reset = .next t ∧ t.rxbuf ≠ State.reset.rxbuf) ∧
    (∃ t, exec .rxFlush stuck = .next t ∧ t.rxbuf ≠ stuck.rxbuf) ∧
    ∃ t, exec (.txBuild 0x77 0x11 []) .reset = .next t ∧ t.txout ≠ State.reset.txout :=
  ⟨⟨_, rfl, by decide⟩, ⟨_, rfl, by simp [stuck]⟩, _, rfl, by decide⟩

theorem witness_BareCodecWithoutCorrelation : c0.corrEn = false := rfl

theorem witness_StepKeepsInvariant :
    BlockInv (offered (.token [0x22])) ∧
    step (offered (.token [0x22])) = .next { State.reset with resp := [[0x00]] } :=
  ⟨⟨by simp [offered], by simp [offered], by simp [offered]⟩, rfl⟩

/-- No input; each fair kind of input. -/
theorem witness_FairInputsNeverStop :
    State.reset.input = [] ∧
    ∀ i ∈ [Input.token [0xFF], .frame [0x1B, 0x02, 0x77, 0x11, 0x1B, 0x03, 0x3D], .rst, .rstDuring [0x01]],
      (offered i).input = i :: [] ∧ i.fair = true := by decide

theorem witness_StalledTransportHangsTxBuild :
    (offered (.stalled [0x10, 0x77, 0x11, 0, 0, 0])).input = .stalled [0x10, 0x77, 0x11, 0, 0, 0] :: [] ∧
    decode .cmd [0x10, 0x77, 0x11, 0, 0, 0] = .ok (.txBuild 0x77 0x11 []) ∧
    ¬ ((offered .rst).corrEn = true ∧ (offered .rst).armed = true) ∧
    ∀ m c p, decode .cmd [0x01] = .ok (.txBuild m c p) →
      (offered .rst).corrEn = true ∧ (offered .rst).armed = true := by
  refine ⟨rfl, by decide, by decide, fun m c p h => absurd (Except.ok.inj h) (by simp)⟩

/-- The longest operand of each width, and a shortest. -/
theorem witness_DecodeEncodeRoundTrip :
    (Instr.ckCompute (List.replicate 65535 0)).wf = true ∧ (Instr.txBuild 0 0 (List.replicate 16777215 0)).wf = true ∧
    (Instr.frameResponseNak 0 0 0 (List.replicate 65527 0)).wf = true ∧ (Instr.reservedOpcode []).wf = true := by
  simp only [Instr.wf, maxTL, maxTX, List.length_replicate]
  decide

theorem witness_EncodeDecodeRoundTrip :
    decode .cmd [0x30, 0xFF] = .ok (.regRead 0xFF) ∧
    decode .wire [0x1B, 0x02, 0x77, 0x11, 0x1B, 0x03, 0x3D] = .ok (.frameRequest 0x77 0x11 []) := by decide

theorem witness_StepRunsTheDecodedInstruction :
    ((offered (.token [0x21])).input = .token [0x21] :: [] ∧ decode .cmd [0x21] = .ok .rxFlush) ∧
    ((offered (.frame [0x1B, 0x02, 0x77, 0x11, 0x1B, 0x03, 0x3D])).input =
      .frame [0x1B, 0x02, 0x77, 0x11, 0x1B, 0x03, 0x3D] :: [] ∧
      decode .wire [0x1B, 0x02, 0x77, 0x11, 0x1B, 0x03, 0x3D] = .ok (.frameRequest 0x77 0x11 [])) := by decide

theorem witness_WireFramesSumToZero :
    (Instr.frameRequest 0x77 0x11 [0x1B, 0x03]).wf = true ∧ (Instr.frameRequest 0x77 0x11 [0x1B, 0x03]).port = .wire := by
  decide

/-- Each clause: too long; the longest that fits; awaited, unsolicited and mismatched. -/
theorem witness_FrameResponsesAreReported :
    Config.rxBufBytes < (List.replicate (Config.rxBufBytes - 7) (0 : Byte)).length + 8 ∧
    (List.replicate (Config.rxBufBytes - 8) (0 : Byte)).length + 8 ≤ Config.rxBufBytes ∧
    (State.reset.rxbuf = [] ∧ ([] : Bytes).length + 8 ≤ Config.rxBufBytes ∧ pairFree [] = true) ∧
    (Awaits (armedFor 0x11) 0x11 ∧ Awaits c0 0x11) ∧
    (State.reset.corrEn = true ∧ State.reset.armed = false) ∧
    ((armedFor 0x12).corrEn = true ∧ (armedFor 0x12).armed = true ∧ (armedFor 0x12).expect ≠ 0x11) := by
  have := rxBufBytes_bounds
  refine ⟨?_, ?_, ⟨rfl, ?_, by decide⟩, ⟨.inr ⟨rfl, rfl⟩, .inl rfl⟩, by decide, by decide⟩ <;> simp <;> omega

/-- 95 P7 step 3 as a TX_BUILD with both spellings of a byte, a register by name, a well-formed command
that has a line, and a line of two tokens. -/
theorem witness_AssembledTokensDecode :
    (AsmRow "TX_BUILD 0x77, 28, [0x01, 2]".toList (.txBuild 0x77 0x1C [0x01, 0x02])
        [0x10, 0x77, 0x1C, 0x00, 0x00, 0x02, 0x01, 0x02] ∧ (Instr.txBuild 0x77 0x1C [0x01, 0x02]).wf = true) ∧
    (AsmRow "REG_READ RXLVL_LO".toList (.regRead 0x04) [0x30, 0x04] ∧ (Instr.regRead 0x04).wf = true) ∧
    ((Instr.rxFeed []).wf = true ∧ (Instr.rxFeed []).port = .cmd ∧ ∀ t, Instr.rxFeed [] ≠ .reservedOpcode t) ∧
    parseLine "RX_ABORT ; both".toList = some [.rxFlush, .rxDisarm] := by
  refine ⟨⟨?_, by decide⟩, ⟨.regRead 0x04 _ (.inr (by decide)), by decide⟩,
    ⟨by decide, rfl, fun t => by simp⟩, by decide⟩
  exact .txBuild 0x77 0x1C [0x01, 0x02] "0x77".toList "28".toList "[0x01, 2]".toList
    (.inl ⟨'7', '7', .inl rfl, .inl rfl, rfl⟩) (.inr rfl)
    (.inr ⟨"0x01, 2".toList, .more 0x01 [0x02] "0x01".toList "2".toList
      (.inl ⟨'0', '1', .inl rfl, .inl rfl, rfl⟩) (.one 0x02 _ (.inr rfl)), rfl⟩)

/-- 95 TB12. -/
theorem witness_PseudoOperationLinesParse :
    PseudoRow "SEND_INFO 0x77, []".toList (.sendInfo 0x77 []) ∧
    ∀ i ∈ expand (.sendInfo 0x77 []), i.wf = true :=
  ⟨.sendInfo 0x77 [] "0x77".toList _ (.inl ⟨'7', '7', .inl rfl, .inl rfl, rfl⟩) (.inl ⟨rfl, rfl⟩), by decide⟩

end Sys2Proof.Tests
end

section
/-! PROOFS of 00_scope: a token is either turned away, which adds its error response and nothing else,
or performed, with a response that is none of ILLEGAL, BUSY and FULL. -/

namespace Sys2Proof.Machine

/-- ILLEGAL, BUSY and FULL: the responses of a command that is turned away (00_scope R16). -/
def Response.rejects : Response → Bool
  | .illegal | .busy | .full => true
  | _ => false

theorem rejects_iff_toBytes (r : Response) :
    r.rejects = true ↔ r.toBytes = [0x01] ∨ r.toBytes = [0x02] ∨ r.toBytes = [0x03] := by
  cases r <;> simp [Response.rejects, Response.toBytes, counted]

/-- `t` is `s` after one command: `s` with a rejection added, or some state that has returned what `s`
has, with a response that is no rejection added. -/
inductive Answered (s : State) : State → Prop
  /-- The command is turned away. -/
  | turnedAway (r : Response) : r.rejects = true → Answered s (turnAway r s)
  /-- The command takes effect. -/
  | performed (r : Response) (u : State) : r.rejects = false → u.resp = s.resp → Answered s (respond r u)

/-- TX_BUILD is BUSY, or it emits, arms and answers OK (41_tx_framer R130). -/
theorem buildAndSend_answered (m c : Byte) (p : Bytes) (s : State) :
    Answered s (buildAndSend m c p s) := by
  rcases buildAndSend_cases m c p s with ⟨-, -, e⟩ | ⟨-, e⟩ <;> rw [e]
  · exact .turnedAway .busy rfl
  · exact .performed .ok _ rfl (by simp)

/-- The report of a verified frame is never a rejection (42_rx_reassembler R148, R149). -/
theorem deliver_answered (x : Bytes) (s u : State) (h : u.resp = s.resp) : Answered s (deliver x u) := by
  rcases deliver_cases x u with ⟨-, -, e⟩ | ⟨-, -, -, e⟩ | ⟨-, e⟩ <;> rw [e]
  · exact .performed (.invUnsolicited x) _ rfl h
  · exact .performed (.invMismatch x) _ rfl h
  · exact .performed (readyOf x) _ rfl h

/-- RX_FEED is FULL, or it reports one evaluation (42_rx_reassembler R142, R143). -/
theorem feed_answered (cap : Nat) (chunk : Bytes) (s : State) : Answered s (feed cap chunk s) := by
  rcases feed_cases cap chunk s with
    ⟨-, e⟩ | ⟨-, e | ⟨-, -, e⟩ | ⟨x, rest, -, -, -, -, ⟨-, e⟩ | ⟨-, e⟩⟩⟩ <;> rw [e]
  · exact .turnedAway .full rfl
  · exact .performed .incomplete _ rfl rfl
  · exact .performed (.invHeader _) _ rfl rfl
  · exact deliver_answered x s _ rfl
  · exact .performed (.invChecksum x) _ rfl rfl

/-- Every instruction is turned away or performed. -/
theorem exec_answered (i : Instr) (s : State) : ∃ t, exec i s = .next t ∧ Answered s t := by
  cases i with
  | reset => exact ⟨_, rfl, .performed .ok _ rfl rfl⟩
  | ckCompute bytes => exact ⟨_, rfl, .performed (.okByte (ck bytes)) _ rfl rfl⟩
  | ckVerify frame => exact ⟨_, rfl, .performed (.okByte (bit8 (verify frame))) _ rfl rfl⟩
  | txBuild m c p => exact ⟨_, rfl, buildAndSend_answered m c p s⟩
  | rxFeed chunk => exact ⟨_, rfl, feed_answered _ chunk s⟩
  | rxFlush => exact ⟨_, rfl, .performed .ok _ rfl rfl⟩
  | rxDisarm => exact ⟨_, rfl, .performed .ok _ rfl rfl⟩
  | regRead a =>
    simp only [exec, execRegRead]
    split
    · next v _ => exact ⟨_, rfl, .performed (.okByte v) _ rfl rfl⟩
    · exact ⟨_, rfl, .turnedAway .illegal rfl⟩
  | regWrite a v =>
    rcases writeReg_cases a v s with ⟨-, e⟩ | ⟨-, e⟩ <;> simp only [exec, execRegWrite, e]
    · exact ⟨_, rfl, .performed .ok _ rfl rfl⟩
    · exact ⟨_, rfl, .turnedAway .illegal rfl⟩
  | reservedOpcode _ => exact ⟨_, rfl, .turnedAway .illegal rfl⟩
  | frameRequest m c p => exact ⟨_, rfl, buildAndSend_answered m c p s⟩
  | frameResponseAck m st c d => exact ⟨_, rfl, feed_answered _ _ s⟩
  | frameResponseNak m st c d => exact ⟨_, rfl, feed_answered _ _ s⟩

/-- A token of the wrong length is turned away; any other token does what its instruction does. -/
theorem performToken_answered (t : Bytes) (s : State) :
    ∃ u, performToken t s = .next u ∧ Answered s u := by
  rcases performToken_cases t s with ⟨i, -, e⟩ | ⟨-, e⟩ <;> rw [e]
  · exact exec_answered i s
  · exact ⟨_, rfl, .turnedAway .illegal rfl⟩

/-- A step on a token answers it, in the state the token has been taken from. -/
theorem step_token_answered (s s' : State) (t : Bytes) (rest : List Input)
    (hin : s.input = .token t :: rest) (hstep : step s = .next s') :
    Answered { s with input := rest } s' := by
  obtain ⟨u, hu, ha⟩ := performToken_answered t { s with input := rest }
  rw [step_cons s _ rest hin, takeInput, hu] at hstep
  cases hstep
  exact ha

/-- A command whose response is a rejection has only added that response. -/
theorem Answered.eq_of_rejection {s t : State} (h : Answered s t) (r : Bytes)
    (hresp : t.resp = s.resp ++ [r]) (hr : r = [0x01] ∨ r = [0x02] ∨ r = [0x03]) :
    t = { s with resp := s.resp ++ [r] } := by
  cases h with
  | turnedAway q _ => rw [← hresp]; rfl
  | performed q u hq hu =>
    have hqr : q.toBytes = r := by simpa [hu] using hresp
    have hrej : q.rejects = true := (rejects_iff_toBytes q).2 (hqr ▸ hr)
    exact absurd (hq.symm.trans hrej) (by decide)

/-- Settles O39: a step on a token turns it away or performs it, and what performs it answers none of
ILLEGAL, BUSY and FULL. -/
theorem rejectedCommandsChangeNothing : Obligations.RejectedCommandsChangeNothing := by
  unfold Obligations.RejectedCommandsChangeNothing
  intro s s' t r rest hin hstep hresp hr
  exact (step_token_answered s s' t rest hin hstep).eq_of_rejection r hresp hr

end Sys2Proof.Machine
end

section
/-! PROOFS of 10_state: one inversion lemma says everything an instruction can do to the state; the
writers of each element, the bare codec and the invariant of every step are read off it. -/

namespace Sys2Proof.Machine

/-! ### What a received chunk and a built request can lead to -/

/-- The responses of a command that writes no element: a value read or computed, or a rejection. -/
inductive Response.Plain : Response → Prop
  /-- CK_COMPUTE, CK_VERIFY and REG_READ. -/
  | okByte (v : Byte) : Plain (.okByte v)
  /-- ILLEGAL. -/
  | illegal : Plain .illegal
  /-- BUSY. -/
  | busy : Plain .busy
  /-- FULL. -/
  | full : Plain .full

/-- The report of the bytes `x` an evaluation took from the buffer, while CORR_EN is `on`
(42_rx_reassembler R145 to R149). -/
inductive Verdict (on : Bool) (x : Bytes) : Response → Prop
  /-- The header is bad. -/
  | invHeader : Verdict on x (.invHeader x)
  /-- The checksum fails. -/
  | invChecksum : Verdict on x (.invChecksum x)
  /-- No request is outstanding. -/
  | unsolicited : on = true → Verdict on x (.invUnsolicited x)
  /-- The outstanding request has another command id. -/
  | mismatch : on = true → Verdict on x (.invMismatch x)
  /-- The frame is reported. -/
  | ready : headerGood x = true → Verdict on x (readyOf x)

/-- The rows that send a request frame (log 5 for the wire row). -/
inductive Sends : Instr → Byte → Byte → Bytes → Prop
  /-- TX_BUILD. -/
  | txBuild (m c : Byte) (p : Bytes) : Sends (.txBuild m c p) m c p
  /-- FRAME_REQUEST. -/
  | frameRequest (m c : Byte) (p : Bytes) : Sends (.frameRequest m c p) m c p

/-- The rows that feed RXBUF, with the bytes they feed (log 5 for the wire rows). -/
inductive Receives : Instr → Bytes → Prop
  /-- RX_FEED. -/
  | rxFeed (chunk : Bytes) : Receives (.rxFeed chunk) chunk
  /-- FRAME_RESPONSE_ACK. -/
  | ack (m st c : Byte) (d : Bytes) : Receives (.frameResponseAck m st c d) (responseFrame ACK m st c d)
  /-- FRAME_RESPONSE_NAK. -/
  | nak (m st c : Byte) (d : Bytes) : Receives (.frameResponseNak m st c d) (responseFrame NAK m st c d)

/-- Everything an instruction can do: `Effect s i t` when `i`, performed in `s`, may leave `t`. -/
inductive Effect (s : State) : Instr → State → Prop
  /-- Only a response is added. -/
  | answer (i : Instr) (r : Response) : r.Plain → Effect s i (respond r s)
  /-- RESET. -/
  | reset : Effect s .reset (respond .ok (resetElements s))
  /-- A request frame leaves. -/
  | send (i : Instr) (m c : Byte) (p : Bytes) : Sends i m c p →
    Effect s i (respond .ok (arm c (emit (requestFrame m c p) s)))
  /-- RX_FLUSH. -/
  | flush : Effect s .rxFlush (respond .ok { s with rxbuf := [] })
  /-- RX_DISARM. -/
  | disarm : Effect s .rxDisarm (respond .ok (disarm s))
  /-- REG_WRITE to CTRL. -/
  | writeCtrl (v : Byte) : Effect s (.regWrite addrCtrl v) (respond .ok (writeCtrl v s))
  /-- A chunk that fits is kept, and no frame is complete. -/
  | keep (i : Instr) (chunk : Bytes) : Receives i chunk →
    s.rxbuf.length + chunk.length ≤ Config.rxBufBytes →
    Effect s i (respond .incomplete { s with rxbuf := s.rxbuf ++ chunk })
  /-- A chunk that fits completes the bytes `x`, which are reported; ARMED is then 0, as it is already
  when `x` is unsolicited. -/
  | consume (i : Instr) (chunk x rest : Bytes) (r : Response) : Receives i chunk →
    s.rxbuf.length + chunk.length ≤ Config.rxBufBytes → s.rxbuf ++ chunk = x ++ rest →
    minFrame ≤ x.length → Verdict s.corrEn x r →
    Effect s i (respond r (Machine.disarm { s with rxbuf := rest }))

theorem disarm_of_not_armed (s : State) (h : s.armed = false) : disarm s = s := by
  cases s; cases h; rfl

theorem Sends.exec_eq {i : Instr} {m c : Byte} {p : Bytes} (h : Sends i m c p) (s : State) :
    exec i s = .next (buildAndSend m c p s) := by
  cases h <;> rfl

theorem Sends.row {i : Instr} {m c : Byte} {p : Bytes} (h : Sends i m c p) :
    i = .txBuild m c p ∨ i = .frameRequest m c p := by
  cases h
  · exact .inl rfl
  · exact .inr rfl

theorem Receives.exec_eq {i : Instr} {chunk : Bytes} (h : Receives i chunk) (s : State) :
    exec i s = .next (feed Config.rxBufBytes chunk s) := by
  cases h <;> rfl

theorem Receives.row {i : Instr} {chunk : Bytes} (h : Receives i chunk) :
    (∃ chunk, i = .rxFeed chunk) ∨ (∃ m st c d, i = .frameResponseAck m st c d) ∨
      ∃ m st c d, i = .frameResponseNak m st c d := by
  cases h with
  | rxFeed => exact .inl ⟨_, rfl⟩
  | ack m st c d => exact .inr (.inl ⟨m, st, c, d, rfl⟩)
  | nak m st c d => exact .inr (.inr ⟨m, st, c, d, rfl⟩)

/-! ### The inversion lemma -/

/-- A row that sends is BUSY, or it sends (41_tx_framer R130). -/
theorem Sends.effect {i : Instr} {m c : Byte} {p : Bytes} (hi : Sends i m c p) (s : State) :
    ∃ t, exec i s = .next t ∧ Effect s i t := by
  refine ⟨_, hi.exec_eq s, ?_⟩
  rcases buildAndSend_cases m c p s with ⟨-, -, e⟩ | ⟨-, e⟩ <;> rw [e]
  · exact .answer i .busy .busy
  · exact .send i m c p hi

/-- A verified frame's report always leaves ARMED at 0 (42_rx_reassembler R148, R149). -/
theorem deliver_verdict (x : Bytes) (s : State) (hh : headerGood x = true) :
    ∃ r, Verdict s.corrEn x r ∧ deliver x s = respond r (disarm s) := by
  rcases deliver_cases x s with ⟨hc, ha, e⟩ | ⟨hc, -, -, e⟩ | ⟨-, e⟩
  · exact ⟨_, .unsolicited hc, by rw [e, disarm_of_not_armed s ha]⟩
  · exact ⟨_, .mismatch hc, e⟩
  · exact ⟨_, .ready hh, e⟩

/-- A row that receives is FULL, keeps the chunk, or consumes and reports the oldest bytes. -/
theorem Receives.effect {i : Instr} {chunk : Bytes} (hi : Receives i chunk) (s : State) :
    ∃ t, exec i s = .next t ∧ Effect s i t := by
  refine ⟨_, hi.exec_eq s, ?_⟩
  rcases feed_cases Config.rxBufBytes chunk s with
    ⟨-, e⟩ | ⟨hfit, e | ⟨h8, -, e⟩ | ⟨x, rest, hb, h8, hh, -, ⟨-, e⟩ | ⟨-, e⟩⟩⟩ <;> rw [e]
  · exact .answer i .full .full
  · exact .keep i chunk hi hfit
  · exact .consume i chunk _ [] _ hi hfit (List.append_nil _).symm h8 .invHeader
  · obtain ⟨r, hr, hd⟩ := deliver_verdict x { s with rxbuf := rest } hh
    rw [hd]
    exact .consume i chunk x rest r hi hfit hb h8 hr
  · exact .consume i chunk x rest _ hi hfit hb h8 .invChecksum

/-- Every instruction answers a next state, which is one of its effects. -/
theorem exec_effect (i : Instr) (s : State) : ∃ t, exec i s = .next t ∧ Effect s i t := by
  cases i with
  | reset => exact ⟨_, rfl, .reset⟩
  | ckCompute bytes => exact ⟨_, rfl, .answer _ _ (.okByte (ck bytes))⟩
  | ckVerify frame => exact ⟨_, rfl, .answer _ _ (.okByte (bit8 (verify frame)))⟩
  | txBuild m c p => exact (Sends.txBuild m c p).effect s
  | rxFeed chunk => exact (Receives.rxFeed chunk).effect s
  | rxFlush => exact ⟨_, rfl, .flush⟩
  | rxDisarm => exact ⟨_, rfl, .disarm⟩
  | regRead a =>
    simp only [exec, execRegRead]
    split
    · next v _ => exact ⟨_, rfl, .answer _ _ (.okByte v)⟩
    · exact ⟨_, rfl, .answer _ _ .illegal⟩
  | regWrite a v =>
    rcases writeReg_cases a v s with ⟨rfl, e⟩ | ⟨-, e⟩ <;> simp only [exec, execRegWrite, e]
    · exact ⟨_, rfl, .writeCtrl v⟩
    · exact ⟨_, rfl, .answer _ _ .illegal⟩
  | reservedOpcode _ => exact ⟨_, rfl, .answer _ _ .illegal⟩
  | frameRequest m c p => exact (Sends.frameRequest m c p).effect s
  | frameResponseAck m st c d => exact (Receives.ack m st c d).effect s
  | frameResponseNak m st c d => exact (Receives.nak m st c d).effect s

theorem effect_of_exec {i : Instr} {s t : State} (h : exec i s = .next t) : Effect s i t := by
  obtain ⟨u, hu, he⟩ := exec_effect i s
  cases hu.symm.trans h
  exact he

/-! ### The responses of the effects -/

theorem toBytes_head? (r : Response) : r.toBytes.head? = some r.code := by
  obtain ⟨x, hx⟩ := toBytes_head r
  rw [hx, List.head?_cons]

theorem Response.Plain.legal {r : Response} (h : r.Plain) : legalResponse r.toBytes = true := by
  cases h <;> rfl

/-- A command that writes nothing reports no correlation outcome. -/
theorem Response.Plain.uncorrelated {r : Response} (h : r.Plain) : r.code ≠ 0x22 ∧ r.code ≠ 0x23 := by
  cases h <;> simp [Response.code]

/-- A good header is followed by the kind ACK or NAK. -/
theorem kind_of_headerGood {x : Bytes} (h : headerGood x = true) : byteAt x 1 = ACK ∨ byteAt x 1 = NAK := by
  unfold headerGood at h
  simp only [Bool.and_eq_true, Bool.or_eq_true, beq_iff_eq] at h
  exact h.2

theorem slice_length_le (x : Bytes) (a b : Nat) : (slice x a b).length ≤ x.length := by
  simp only [slice, List.length_take, List.length_drop]; omega

/-- Whatever is reported of at least 8 bytes that one token can carry has a listed layout. -/
theorem Verdict.legal {on : Bool} {x : Bytes} {r : Response} (h : Verdict on x r)
    (hmin : minFrame ≤ x.length) (hmax : x.length ≤ maxTL) : legalResponse r.toBytes = true := by
  cases h with
  | invHeader => exact legalResponse_counted 0x20 x (by decide) hmin hmax
  | invChecksum => exact legalResponse_counted 0x21 x (by decide) hmin hmax
  | mismatch _ => exact legalResponse_counted 0x22 x (by decide) hmin hmax
  | unsolicited _ => exact legalResponse_counted 0x23 x (by decide) hmin hmax
  | ready hh =>
    exact legalResponse_ready _ _ _ _ _ (kind_of_headerGood hh) ((slice_length_le x _ _).trans hmax)

/-- A report of consumed bytes is never INCOMPLETE. -/
theorem Verdict.code_ne_incomplete {on : Bool} {x : Bytes} {r : Response} (h : Verdict on x r) :
    r.code ≠ 0x10 := by
  cases h <;> simp [Response.code, readyOf]

/-- Without correlation a frame is neither mismatched nor unsolicited. -/
theorem Verdict.uncorrelated {x : Bytes} {r : Response} (h : Verdict false x r) :
    r.code ≠ 0x22 ∧ r.code ≠ 0x23 := by
  cases h with
  | invHeader | invChecksum => simp [Response.code]
  | ready _ => simp [Response.code, readyOf]
  | mismatch hon | unsolicited hon => exact absurd hon (by decide)

/-! ### The invariant -/

/-- The invariant looks at four fields; the ports CMD and TXOUT, EXPECT and the model's draws are free. -/
theorem BlockInv.congr {s t : State} (h : BlockInv s) (hb : t.rxbuf = s.rxbuf) (ha : t.armed = s.armed)
    (hc : t.corrEn = s.corrEn) (hr : t.resp = s.resp) : BlockInv t where
  capacity := hb ▸ h.capacity
  correlation := by rw [hc, ha]; exact h.correlation
  responses := hr ▸ h.responses

theorem BlockInv.respond {s : State} (h : BlockInv s) {r : Response} (hr : legalResponse r.toBytes = true) :
    BlockInv (respond r s) where
  capacity := h.capacity
  correlation := h.correlation
  responses := by
    intro t ht
    rcases List.mem_append.1 ht with hold | hnew
    · exact h.responses t hold
    · rw [List.mem_singleton.1 hnew]; exact hr

theorem BlockInv.resetElements {s : State} (h : BlockInv s) : BlockInv (resetElements s) where
  capacity := Nat.zero_le _
  correlation := fun _ => rfl
  responses := h.responses

theorem BlockInv.setRxbuf {s : State} (h : BlockInv s) {b : Bytes} (hb : b.length ≤ Config.rxBufBytes) :
    BlockInv { s with rxbuf := b } where
  capacity := hb
  correlation := h.correlation
  responses := h.responses

theorem BlockInv.disarm {s : State} (h : BlockInv s) : BlockInv (disarm s) where
  capacity := h.capacity
  correlation := fun _ => rfl
  responses := h.responses

/-- A write of 0 to CTRL clears ARMED with CORR_EN (43_control R176). -/
theorem BlockInv.writeCtrl {s : State} (h : BlockInv s) (v : Byte) : BlockInv (writeCtrl v s) where
  capacity := h.capacity
  correlation := by
    rw [writeCtrl_corrEn, writeCtrl_armed]
    intro hv
    rw [hv, Bool.and_false]
  responses := h.responses

/-- TX_BUILD arms only while CORR_EN is 1 (41_tx_framer R130). -/
theorem BlockInv.arm {s : State} (h : BlockInv s) (c : Byte) : BlockInv (arm c s) where
  capacity := by rw [arm_rxbuf]; exact h.capacity
  correlation := by
    rw [arm_corrEn, arm_armed]
    intro hc
    rw [hc, Bool.false_or]
    exact h.correlation hc
  responses := by rw [arm_resp]; exact h.responses

/-- Every effect keeps the invariant. -/
theorem Effect.keeps_inv {s t : State} {i : Instr} (he : Effect s i t) (h : BlockInv s) : BlockInv t := by
  cases he with
  | answer _ r hr => exact h.respond hr.legal
  | reset => exact h.resetElements.respond rfl
  | send _ m c p _ =>
    have hemit : BlockInv (emit (requestFrame m c p) s) := h.congr rfl rfl rfl rfl
    exact (hemit.arm c).respond rfl
  | flush => exact (h.setRxbuf (Nat.zero_le _)).respond rfl
  | disarm => exact h.disarm.respond rfl
  | writeCtrl v => exact (h.writeCtrl v).respond rfl
  | keep _ chunk _ hfit =>
    exact (h.setRxbuf (by rwa [List.length_append])).respond rfl
  | consume _ chunk x rest r _ hfit hb hmin hr =>
    have hlen : s.rxbuf.length + chunk.length = x.length + rest.length := by
      simpa using congrArg List.length hb
    have hmax : x.length ≤ maxTL := by
      have := rxBufBytes_bounds
      unfold maxTL
      omega
    exact (h.setRxbuf (b := rest) (by omega)).disarm.respond (hr.legal hmin hmax)

theorem exec_keeps_inv {i : Instr} {s t : State} (h : BlockInv s) (he : exec i s = .next t) : BlockInv t :=
  (effect_of_exec he).keeps_inv h

/-- A token keeps the invariant: it runs an instruction, or has the wrong length. -/
theorem performToken_keeps_inv {b : Bytes} {s t : State} (h : BlockInv s)
    (ht : performToken b s = .next t) : BlockInv t := by
  rcases performToken_cases b s with ⟨i, -, e⟩ | ⟨-, e⟩ <;> rw [e] at ht
  · exact exec_keeps_inv h ht
  · cases ht
    exact h.respond rfl

theorem performFrame_keeps_inv {f : Bytes} {s t : State} (h : BlockInv s)
    (ht : performFrame f s = .next t) : BlockInv t := by
  rcases performFrame_cases f s with ⟨i, -, e⟩ | e | e <;> rw [e] at ht
  · exact exec_keeps_inv h ht
  · cases ht
  · cases ht

/-- RST during a token keeps the invariant, whichever of its three outcomes it has. -/
theorem performCut_keeps_inv {b : Bytes} {s t : State} (h : BlockInv s)
    (ht : performCut b s = .next t) : BlockInv t := by
  have hdrawn : BlockInv (drawn s) := h.congr rfl rfl rfl rfl
  rcases performCut_cases b s with ⟨frame, k, -, -, e⟩ | ⟨-, e | e⟩ <;> rw [e] at ht
  · cases ht
    have hemit : BlockInv (emit (frame.take k) (drawn s)) := hdrawn.congr rfl rfl rfl rfl
    exact hemit.resetElements
  · exact performToken_keeps_inv hdrawn.resetElements ht
  · obtain ⟨u, hu, -⟩ := performToken_next b (drawn s)
    rw [hu] at ht
    cases ht
    exact (performToken_keeps_inv hdrawn hu).resetElements

theorem performStalled_keeps_inv {b : Bytes} {s t : State} (h : BlockInv s)
    (ht : performStalled b s = .next t) : BlockInv t := by
  rcases performStalled_cases b s with ⟨-, e⟩ | ⟨-, e⟩ <;> rw [e] at ht
  · cases ht
  · exact performToken_keeps_inv h ht

theorem takeInput_keeps_inv {i : Input} {s t : State} (h : BlockInv s)
    (ht : takeInput i s = .next t) : BlockInv t := by
  cases i with
  | token b => exact performToken_keeps_inv h ht
  | frame f => exact performFrame_keeps_inv h ht
  | rst => cases ht; exact h.resetElements
  | rstDuring b => exact performCut_keeps_inv h ht
  | stalled b => exact performStalled_keeps_inv h ht

/-- Settles O47: a step waits or takes its oldest input, and every kind of input keeps the invariant. -/
theorem stepKeepsInvariant : Obligations.StepKeepsInvariant := by
  unfold Obligations.StepKeepsInvariant
  intro s s' h hstep
  cases hin : s.input with
  | nil =>
    rw [step_idle s hin] at hstep
    cases hstep
    exact h
  | cons i rest =>
    rw [step_cons s i rest hin] at hstep
    have htaken : BlockInv { s with input := rest } := h.congr rfl rfl rfl rfl
    exact takeInput_keeps_inv htaken hstep

/-! ### The writers of each element -/

/-- Settles O41: of the effects, only the reset and the arming touch EXPECT. -/
theorem expectWriters : Obligations.ExpectWriters := by
  unfold Obligations.ExpectWriters
  intro i s t h hne
  cases effect_of_exec h with
  | reset => exact .inl ⟨rfl, rfl⟩
  | send _ m c p hi =>
    rw [respond_expect, arm_expect, emit_corrEn, emit_expect] at hne ⊢
    have hon : s.corrEn = true := by
      by_contra hoff
      exact hne (if_neg hoff)
    exact .inr ⟨m, c, p, hi.row, hon, if_pos hon⟩
  | answer | flush | disarm | writeCtrl | keep | consume => exact absurd rfl hne

/-- Settles O42: of the effects, only the reset and the write of CTRL touch CORR_EN. -/
theorem corrEnWriters : Obligations.CorrEnWriters := by
  unfold Obligations.CorrEnWriters
  intro i s t h hne
  cases effect_of_exec h with
  | reset => exact .inl ⟨rfl, rfl⟩
  | writeCtrl v => exact .inr ⟨v, rfl, rfl⟩
  | send _ m c p _ =>
    rw [respond_corrEn, arm_corrEn, emit_corrEn] at hne
    exact absurd rfl hne
  | answer | flush | disarm | keep | consume => exact absurd rfl hne

/-- ARMED goes from 0 to 1 by the arming alone. -/
theorem Effect.sets_armed {s t : State} {i : Instr} (he : Effect s i t) (hs : s.armed = false)
    (ht : t.armed = true) : s.corrEn = true ∧ ∃ m c p, Sends i m c p := by
  cases he with
  | send _ m c p hi =>
    rw [respond_armed, arm_armed, emit_corrEn, emit_armed, hs, Bool.or_false] at ht
    exact ⟨ht, m, c, p, hi⟩
  | writeCtrl v =>
    rw [respond_armed, writeCtrl_armed, hs, Bool.false_and] at ht
    cases ht
  | answer | flush | keep => exact absurd (hs.symm.trans ht) (by decide)
  | reset | disarm | consume => exact absurd ht Bool.false_ne_true

/-- ARMED goes from 1 to 0 by a reset, a disarm, a write of 0 to CTRL, or the report of consumed bytes,
which is not INCOMPLETE. -/
theorem Effect.clears_armed {s t : State} {i : Instr} (he : Effect s i t) (hs : s.armed = true)
    (ht : t.armed = false) :
    i = .reset ∨ i = .rxDisarm ∨ (∃ v : Byte, i = .regWrite addrCtrl v ∧ v.getLsbD 0 = false) ∨
      (∃ chunk, Receives i chunk) ∧ t.resp ≠ s.resp ++ [[0x10]] := by
  cases he with
  | reset => exact .inl rfl
  | disarm => exact .inr (.inl rfl)
  | writeCtrl v =>
    rw [respond_armed, writeCtrl_armed, hs, Bool.true_and] at ht
    exact .inr (.inr (.inl ⟨v, rfl, ht⟩))
  | consume _ chunk x rest r hi _ _ _ hr =>
    refine .inr (.inr (.inr ⟨⟨chunk, hi⟩, fun hresp => hr.code_ne_incomplete ?_⟩))
    have hbytes : r.toBytes = [0x10] := by simpa using hresp
    simpa [hbytes] using (toBytes_head? r).symm
  | send _ m c p _ =>
    rw [respond_armed, arm_armed, emit_armed, hs, Bool.or_true] at ht
    cases ht
  | answer | flush | keep => exact absurd (hs.symm.trans ht) (by decide)

/-- Settles O43: the setters and the clearers of ARMED among the effects. -/
theorem armedWriters : Obligations.ArmedWriters := by
  unfold Obligations.ArmedWriters
  intro i s t h
  have he := effect_of_exec h
  refine ⟨fun hs ht => ?_, fun hs ht => ?_⟩
  · obtain ⟨hon, m, c, p, hi⟩ := he.sets_armed hs ht
    exact ⟨hon, m, c, p, hi.row⟩
  · rcases he.clears_armed hs ht with hi | hi | hi | ⟨⟨chunk, hi⟩, hresp⟩
    · exact .inl hi
    · exact .inr (.inl hi)
    · exact .inr (.inr (.inl hi))
    · exact .inr (.inr (.inr ⟨hi.row, hresp⟩))

/-- RXBUF is written by RESET, RX_FLUSH and the rows that receive. -/
theorem Effect.writes_rxbuf {s t : State} {i : Instr} (he : Effect s i t) (hne : t.rxbuf ≠ s.rxbuf) :
    i = .reset ∨ i = .rxFlush ∨ ∃ chunk, Receives i chunk := by
  cases he with
  | reset => exact .inl rfl
  | flush => exact .inr (.inl rfl)
  | keep _ chunk hi => exact .inr (.inr ⟨chunk, hi⟩)
  | consume _ chunk _ _ _ hi => exact .inr (.inr ⟨chunk, hi⟩)
  | send _ m c p _ =>
    rw [respond_rxbuf, arm_rxbuf, emit_rxbuf] at hne
    exact absurd rfl hne
  | answer | disarm | writeCtrl => exact absurd rfl hne

/-- TXOUT is written by the rows that send, each with its whole request frame. -/
theorem Effect.writes_txout {s t : State} {i : Instr} (he : Effect s i t) (hne : t.txout ≠ s.txout) :
    ∃ m c p, Sends i m c p ∧ t.txout = s.txout ++ requestFrame m c p := by
  cases he with
  | send _ m c p hi => exact ⟨m, c, p, hi, by rw [respond_txout, arm_txout, emit_txout]⟩
  | answer | reset | flush | disarm | writeCtrl | keep | consume => exact absurd rfl hne

/-- Settles O44: the writers of RXBUF and of TXOUT among the effects. -/
theorem rxbufAndTxoutWriters : Obligations.RxbufAndTxoutWriters := by
  unfold Obligations.RxbufAndTxoutWriters
  intro i s t h
  have he := effect_of_exec h
  refine ⟨fun hne => ?_, fun hne => ?_⟩
  · rcases he.writes_rxbuf hne with hi | hi | ⟨chunk, hi⟩
    · exact .inl hi
    · exact .inr (.inl hi)
    · exact .inr (.inr hi.row)
  · obtain ⟨m, c, p, hi, hout⟩ := he.writes_txout hne
    exact ⟨m, c, p, hi.row, hout⟩

/-! ### The bare codec -/

/-- With CORR_EN 0, TX_BUILD is never BUSY and never arms. -/
theorem buildAndSend_bare (m c : Byte) (p : Bytes) (s : State) (h : s.corrEn = false) :
    buildAndSend m c p s = respond .ok (emit (requestFrame m c p) s) := by
  rcases buildAndSend_cases m c p s with ⟨hon, -, -⟩ | ⟨-, e⟩
  · exact absurd (hon.symm.trans h) (by decide)
  · rw [e, arm_off c (emit (requestFrame m c p) s) h]

/-- With CORR_EN 0, a row that receives reports no correlation outcome. -/
theorem Receives.bare_response {i : Instr} {chunk : Bytes} (hi : Receives i chunk) {s t : State}
    (h : s.corrEn = false) (he : Effect s i t) :
    ∃ r : Response, t.resp = s.resp ++ [r.toBytes] ∧ r.code ≠ 0x22 ∧ r.code ≠ 0x23 := by
  cases he with
  | answer _ r hr => exact ⟨r, rfl, hr.uncorrelated⟩
  | keep => exact ⟨.incomplete, rfl, by decide, by decide⟩
  | consume _ _ _ _ r _ _ _ _ hr =>
    rw [h] at hr
    exact ⟨r, rfl, hr.uncorrelated⟩
  | send _ _ _ _ hs => cases hs <;> cases hi
  | reset | flush | disarm | writeCtrl => cases hi

/-- Settles O45: without CORR_EN neither the framer's arming nor the correlation check takes part. -/
theorem bareCodecWithoutCorrelation : Obligations.BareCodecWithoutCorrelation := by
  unfold Obligations.BareCodecWithoutCorrelation
  intro s h
  refine ⟨fun m c p => ?_, fun chunk => ?_⟩
  · rw [(Sends.txBuild m c p).exec_eq, buildAndSend_bare m c p s h]
    rfl
  · obtain ⟨t, ht, he⟩ := exec_effect (.rxFeed chunk) s
    obtain ⟨r, hresp, h22, h23⟩ := (Receives.rxFeed chunk).bare_response h he
    refine ⟨t, r.toBytes, ht, hresp, ?_, ?_⟩
    · rw [toBytes_head?]; exact fun hr => h22 (Option.some.inj hr)
    · rw [toBytes_head?]; exact fun hr => h23 (Option.some.inj hr)

/-! ### Reset -/

theorem readReg_ctrl (s : State) : readReg 0x00 s = some (ctrlByte s) := rfl
theorem readReg_stat (s : State) : readReg 0x01 s = some (statByte s) := rfl
theorem readReg_expect (s : State) : readReg 0x02 s = some s.expect := rfl
theorem readReg_rxlvlHi (s : State) : readReg 0x03 s = some (hi8 s.rxbuf.length) := rfl
theorem readReg_rxlvlLo (s : State) : readReg 0x04 s = some (lo8 s.rxbuf.length) := rfl

/-- The four elements at their reset values settle what the five registers read (10_state R40 to R44). -/
theorem atReset_of_elements {s : State} (hbuf : s.rxbuf = []) (harmed : s.armed = false)
    (hexpect : s.expect = 0x00) (hcorr : s.corrEn = true) : AtReset s where
  rxbuf := hbuf
  armed := harmed
  expect := hexpect
  corrEn := hcorr
  ctrl := by rw [readReg_ctrl, ctrlByte, hcorr]; rfl
  stat := by rw [readReg_stat, statByte, rxne, harmed, hbuf]; rfl
  expectReg := by rw [readReg_expect, hexpect]
  rxlvlHi := by rw [readReg_rxlvlHi, hbuf]; decide
  rxlvlLo := by rw [readReg_rxlvlLo, hbuf]; decide

theorem atReset_resetElements (s : State) : AtReset (resetElements s) :=
  atReset_of_elements rfl rfl rfl rfl

/-- Settles O1: RESET and RST both put the four elements at their reset values. -/
theorem resetLeavesSpecValues : Obligations.ResetLeavesSpecValues := by
  unfold Obligations.ResetLeavesSpecValues
  refine ⟨atReset_of_elements rfl rfl rfl rfl, fun s => ?_, fun s rest hin => ?_⟩
  · exact ⟨respond .ok (resetElements s), rfl, atReset_of_elements rfl rfl rfl rfl⟩
  · exact ⟨_, step_cons s .rst rest hin, atReset_resetElements _⟩

/-- Settles O46: RXBUF is empty, ARMED is 0 and nothing has been returned. -/
theorem invariantAtReset : Obligations.InvariantAtReset := by
  unfold Obligations.InvariantAtReset
  exact ⟨Nat.zero_le _, fun _ => rfl, fun t ht => by cases ht⟩

end Sys2Proof.Machine
end

section
/-! PROOFS of 20_memory: a step runs what its input decodes to, a token is answered by one listed
response, and TX_BUILD's test and set of ARMED turns the second of two requests away. -/

namespace Sys2Proof.Machine

/-! ### The decoded instruction -/

theorem performToken_of_decode {b : Bytes} {i : Instr} (h : decode .cmd b = .ok i) (s : State) :
    performToken b s = exec i s := by
  simp only [performToken, h]

theorem performFrame_of_decode {b : Bytes} {i : Instr} (h : decode .wire b = .ok i) (s : State) :
    performFrame b s = exec i s := by
  simp only [performFrame, h]

/-- Settles O52: the step takes the oldest input, and performing it is exec of what it decodes to. -/
theorem stepRunsTheDecodedInstruction : Obligations.StepRunsTheDecodedInstruction := by
  unfold Obligations.StepRunsTheDecodedInstruction
  refine fun s b i rest => ⟨fun hin hdec => ?_, fun hin hdec => ?_⟩
  · exact (step_cons s _ rest hin).trans (performToken_of_decode hdec _)
  · exact (step_cons s _ rest hin).trans (performFrame_of_decode hdec _)

/-! ### The test and set of ARMED -/

theorem execAll_cons {i : Instr} {s t : State} (h : exec i s = .next t) (is : List Instr) :
    execAll (i :: is) s = execAll is t := by
  simp only [execAll, h]

/-- With no request outstanding, TX_BUILD sends its frame and answers OK. -/
theorem buildAndSend_sends (m c : Byte) (p : Bytes) (s : State) (h : s.armed = false) :
    buildAndSend m c p s = respond .ok (arm c (emit (requestFrame m c p) s)) := by
  rcases buildAndSend_cases m c p s with ⟨-, ha, -⟩ | ⟨-, e⟩
  · exact absurd (h.symm.trans ha) (by decide)
  · exact e

/-- With a request outstanding, TX_BUILD is BUSY. -/
theorem buildAndSend_busy (m c : Byte) (p : Bytes) (s : State) (hc : s.corrEn = true)
    (ha : s.armed = true) : buildAndSend m c p s = turnAway .busy s := by
  rcases buildAndSend_cases m c p s with ⟨-, -, e⟩ | ⟨hc' | ha', -⟩
  · exact e
  · exact absurd (hc.symm.trans hc') (by decide)
  · exact absurd (ha.symm.trans ha') (by decide)

/-- Settles O15: the first TX_BUILD arms the block, so the second one finds it armed. -/
theorem secondRequestIsBusy : Obligations.SecondRequestIsBusy := by
  unfold Obligations.SecondRequestIsBusy
  intro m c m' c' p p' s hc ha
  have hfirst := (Sends.txBuild m c p).exec_eq s
  rw [buildAndSend_sends m c p s ha] at hfirst
  have hsecond := (Sends.txBuild m' c' p').exec_eq (respond .ok (arm c (emit (requestFrame m c p) s)))
  rw [buildAndSend_busy m' c' p' _ (by simp [hc]) (by simp [hc])] at hsecond
  rw [execAll_cons hfirst, execAll_cons hsecond, arm_on c (emit (requestFrame m c p) s) hc]
  simp [execAll, turnAway, respond, emit, Response.toBytes]

/-! ### One listed response -/

/-- What a row takes from a buffer within its capacity fits one token's length field. -/
theorem consumed_le_maxTL {b chunk x rest : Bytes} (hfit : b.length + chunk.length ≤ Config.rxBufBytes)
    (hb : b ++ chunk = x ++ rest) : x.length ≤ maxTL := by
  have hlen : b.length + chunk.length = x.length + rest.length := by
    simpa using congrArg List.length hb
  have := rxBufBytes_bounds
  unfold maxTL
  omega

/-- Every effect adds exactly one response, of a listed layout (30_encoding R91, R92). -/
theorem Effect.responds {s t : State} {i : Instr} (he : Effect s i t) :
    ∃ r : Response, t.resp = s.resp ++ [r.toBytes] ∧ legalResponse r.toBytes = true := by
  cases he with
  | answer _ r hr => exact ⟨r, rfl, hr.legal⟩
  | send _ m c p _ => exact ⟨.ok, by rw [respond_resp, arm_resp, emit_resp], rfl⟩
  | reset | flush | disarm | writeCtrl => exact ⟨.ok, rfl, rfl⟩
  | keep => exact ⟨.incomplete, rfl, rfl⟩
  | consume _ _ _ _ r _ hfit hb hmin hr => exact ⟨r, rfl, hr.legal hmin (consumed_le_maxTL hfit hb)⟩

/-- A token is answered by the response of its instruction, or by ILLEGAL. -/
theorem performToken_responds {b : Bytes} {s t : State} (ht : performToken b s = .next t) :
    ∃ r : Response, t.resp = s.resp ++ [r.toBytes] ∧ legalResponse r.toBytes = true := by
  rcases performToken_cases b s with ⟨i, -, e⟩ | ⟨-, e⟩ <;> rw [e] at ht
  · exact (effect_of_exec ht).responds
  · cases ht
    exact ⟨.illegal, rfl, rfl⟩

/-- Settles O40: a token always has a next state, which leaves the other inputs and adds one listed
response. The premise on RXBUF is not needed: a chunk that would pass the capacity is FULL. -/
theorem oneLegalResponsePerToken : Obligations.OneLegalResponsePerToken := by
  unfold Obligations.OneLegalResponsePerToken
  intro s t rest _ hin
  obtain ⟨u, hu, hinput⟩ := performToken_next t { s with input := rest }
  obtain ⟨r, hresp, hlegal⟩ := performToken_responds hu
  exact ⟨u, r.toBytes, (step_cons s _ rest hin).trans hu, hinput, hresp, hlegal⟩

end Sys2Proof.Machine
end

section
/-! PROOFS of 30_encoding: what decodes, and to what, is said once as an equivalence with the encoding;
the required lengths, the reserved row, the written-out words and the assembler's tokens are read off it.
The wire frames' rows follow from one evaluation of a response frame, and the lines of the assembler from
one lemma per shape of line. -/

namespace Sys2Proof

/-! ### Decoding and encoding (30_encoding R70, R71, R81 to R84) -/

/-- A token that decodes is the encoding of a well-formed command-port instruction. -/
theorem encode_of_decodeToken {t : Bytes} {i : Instr} (h : decodeToken t = .ok i) :
    encode i = t ∧ i.port = .cmd ∧ i.wf = true := by
  cases hr : isReserved t with
  | true =>
    cases (decodeToken_reserved t hr).symm.trans h
    exact ⟨rfl, rfl, hr⟩
  | false =>
    match t, hr with
    | op :: r, hr =>
      rcases opcode_cases op r hr with rfl | rfl | rfl | rfl | rfl | rfl | rfl | rfl | rfl
      · obtain ⟨rfl, rfl⟩ := (decodeT0_ok _ _ _).1 h
        exact ⟨rfl, rfl, rfl⟩
      · obtain ⟨bs, hl, rfl, rfl⟩ := (decodeTL_ok _ _ _).1 h
        exact ⟨rfl, rfl, decide_eq_true hl⟩
      · obtain ⟨bs, hl, rfl, rfl⟩ := (decodeTL_ok _ _ _).1 h
        exact ⟨rfl, rfl, decide_eq_true hl⟩
      · obtain ⟨m, c, p, hl, rfl, rfl⟩ := (decodeTX_ok _ _).1 h
        exact ⟨rfl, rfl, decide_eq_true hl⟩
      · obtain ⟨bs, hl, rfl, rfl⟩ := (decodeTL_ok _ _ _).1 h
        exact ⟨rfl, rfl, decide_eq_true hl⟩
      · obtain ⟨rfl, rfl⟩ := (decodeT0_ok _ _ _).1 h
        exact ⟨rfl, rfl, rfl⟩
      · obtain ⟨rfl, rfl⟩ := (decodeT0_ok _ _ _).1 h
        exact ⟨rfl, rfl, rfl⟩
      · obtain ⟨a, rfl, rfl⟩ := (decodeTA_ok _ _).1 h
        exact ⟨rfl, rfl, rfl⟩
      · obtain ⟨a, v, rfl, rfl⟩ := (decodeTAV_ok _ _).1 h
        exact ⟨rfl, rfl, rfl⟩

/-- A wire frame decodes only to the row that lays it out, and only if one token can carry it. -/
theorem encode_of_decodeFrame {f : Bytes} {i : Instr} (h : decodeFrame f = .ok i) :
    encode i = f ∧ i.port = .wire ∧ i.wf = true := by
  unfold decodeFrame at h
  simp only at h
  split_ifs at h with hreq hlen hack hlen hnak hlen <;> cases h
  · exact ⟨hreq.symm, rfl, decide_eq_true hlen⟩
  · exact ⟨hack.symm, rfl, decide_eq_true hlen⟩
  · exact ⟨hnak.symm, rfl, decide_eq_true hlen⟩

theorem decodeFrame_request (m c : Byte) (p : Bytes) (h : p.length ≤ maxTX) :
    decodeFrame (requestFrame m c p) = .ok (.frameRequest m c p) := by
  simp only [decodeFrame, requestFrame_payload, requestFrame_byte2, requestFrame_byte3, if_true, h]

theorem decodeFrame_ack (m st c : Byte) (d : Bytes) (h : d.length + 8 ≤ maxTL) :
    decodeFrame (responseFrame ACK m st c d) = .ok (.frameResponseAck m st c d) := by
  have hreq := fun m' c' p => frame_kinds_differ m' c' ACK m st c p d (.inl rfl)
  simp only [decodeFrame, responseFrame_data, responseFrame_byte2, responseFrame_byte3,
    responseFrame_byte4, hreq, if_false, if_true, h]

theorem decodeFrame_nak (m st c : Byte) (d : Bytes) (h : d.length + 8 ≤ maxTL) :
    decodeFrame (responseFrame NAK m st c d) = .ok (.frameResponseNak m st c d) := by
  have hreq := fun m' c' p => frame_kinds_differ m' c' NAK m st c p d (.inr rfl)
  have hack := fun m' st' c' d' => ack_ne_nak_frame m st c m' st' c' d d'
  simp only [decodeFrame, responseFrame_data, responseFrame_byte2, responseFrame_byte3,
    responseFrame_byte4, hreq, hack, if_false, if_true, h]

/-- The encoding of a well-formed instruction decodes to it, row by row. -/
theorem decode_encode (i : Instr) (hw : i.wf = true) : decode i.port (encode i) = .ok i := by
  cases i with
  | reset | rxFlush | rxDisarm | regRead | regWrite => rfl
  | ckCompute bs => exact (decodeTL_ok .ckCompute _ _).2 ⟨bs, of_decide_eq_true hw, rfl, rfl⟩
  | ckVerify f => exact (decodeTL_ok .ckVerify _ _).2 ⟨f, of_decide_eq_true hw, rfl, rfl⟩
  | txBuild m c p => exact (decodeTX_ok _ _).2 ⟨m, c, p, of_decide_eq_true hw, rfl, rfl⟩
  | rxFeed chunk => exact (decodeTL_ok .rxFeed _ _).2 ⟨chunk, of_decide_eq_true hw, rfl, rfl⟩
  | reservedOpcode t => exact decodeToken_reserved t hw
  | frameRequest m c p => exact decodeFrame_request m c p (of_decide_eq_true hw)
  | frameResponseAck m st c d => exact decodeFrame_ack m st c d (of_decide_eq_true hw)
  | frameResponseNak m st c d => exact decodeFrame_nak m st c d (of_decide_eq_true hw)

/-- The decoder inverts the encoder: bytes decode at a port to exactly the well-formed instruction of
that port whose encoding they are. -/
theorem decode_ok_iff (p : Port) (b : Bytes) (i : Instr) :
    decode p b = .ok i ↔ encode i = b ∧ i.port = p ∧ i.wf = true := by
  constructor
  · cases p with
    | cmd => exact encode_of_decodeToken
    | wire => exact encode_of_decodeFrame
  · rintro ⟨rfl, rfl, hw⟩
    exact decode_encode i hw

theorem decode_cmd_encode {i : Instr} (hp : i.port = .cmd) (hw : i.wf = true) :
    decode .cmd (encode i) = .ok i := hp ▸ decode_encode i hw

/-- Settles O50: each row's encoding is what its format's lemma, or its frame's, decodes. -/
theorem decodeEncodeRoundTrip : Obligations.DecodeEncodeRoundTrip := by
  unfold Obligations.DecodeEncodeRoundTrip
  exact decode_encode

/-- Settles O51: the formats and the frame layouts allow no bytes but the encoding's. -/
theorem encodeDecodeRoundTrip : Obligations.EncodeDecodeRoundTrip := by
  unfold Obligations.EncodeDecodeRoundTrip
  exact fun p b i h => (decode_ok_iff p b i).1 h

/-- Settles O53: every word is the encoding of its instruction. -/
theorem writtenOutWordsDecode : Obligations.WrittenOutWordsDecode := by
  unfold Obligations.WrittenOutWordsDecode
  simp only [decode_ok_iff]
  decide

/-! ### The required length of a token (30_encoding R82, R83) -/

/-- The length lemmas of the thirteen rows, as one. -/
theorem encodedLength (i : Instr) : Laws.EncodedLength.Statement i := by
  cases i with
  | reset => exact Laws.EncodedLength.reset
  | ckCompute bs => exact Laws.EncodedLength.ckCompute bs
  | ckVerify f => exact Laws.EncodedLength.ckVerify f
  | txBuild m c p => exact Laws.EncodedLength.txBuild m c p
  | rxFeed chunk => exact Laws.EncodedLength.rxFeed chunk
  | rxFlush => exact Laws.EncodedLength.rxFlush
  | rxDisarm => exact Laws.EncodedLength.rxDisarm
  | regRead a => exact Laws.EncodedLength.regRead a
  | regWrite a v => exact Laws.EncodedLength.regWrite a v
  | reservedOpcode t => exact Laws.EncodedLength.reservedOpcode t
  | frameRequest m c p => exact Laws.EncodedLength.frameRequest m c p
  | frameResponseAck m st c d => exact Laws.EncodedLength.frameResponseAck m st c d
  | frameResponseNak m st c d => exact Laws.EncodedLength.frameResponseNak m st c d

theorem decodeT0_of_length (i : Instr) (op : Byte) (r : Bytes)
    (hop : op = opReset ∨ op = opRxFlush ∨ op = opRxDisarm)
    (h : requiredLength (op :: r) = some (r.length + 1)) : ∃ j, decodeT0 i r = .ok j := by
  have hn : some 1 = some (r.length + 1) := by rcases hop with rfl | rfl | rfl <;> exact h
  have hr : r = [] := by simpa using hn
  exact ⟨i, by rw [hr]; rfl⟩

theorem decodeTL_of_length (mk : Bytes → Instr) (op : Byte) (r : Bytes)
    (hop : op = opCkCompute ∨ op = opCkVerify ∨ op = opRxFeed)
    (h : requiredLength (op :: r) = some (r.length + 1)) : ∃ j, decodeTL mk r = .ok j := by
  match r with
  | [] | [_] => rcases hop with rfl | rfl | rfl <;> cases h
  | nH :: nL :: bs =>
    have hn : some (3 + u16 nH nL) = some (bs.length + 3) := by
      rcases hop with rfl | rfl | rfl <;> exact h
    have hlen : bs.length = u16 nH nL := by injection hn; omega
    exact ⟨mk bs, by simp [decodeTL, hlen]⟩

theorem decodeTX_of_length (r : Bytes) (h : requiredLength (opTxBuild :: r) = some (r.length + 1)) :
    ∃ j, decodeTX r = .ok j := by
  match r with
  | [] | [_] | [_, _] | [_, _, _] | [_, _, _, _] => cases h
  | m :: c :: n2 :: n1 :: n0 :: p =>
    have hn : some (6 + u24 n2 n1 n0) = some (p.length + 6) := h
    have hlen : p.length = u24 n2 n1 n0 := by injection hn; omega
    exact ⟨.txBuild m c p, by simp [decodeTX, hlen]⟩

theorem decodeTA_of_length (r : Bytes) (h : requiredLength (opRegRead :: r) = some (r.length + 1)) :
    ∃ j, decodeTA r = .ok j := by
  have hn : 2 = r.length + 1 := Option.some.inj h
  obtain ⟨a, rfl⟩ := List.length_eq_one_iff.1 (show r.length = 1 by omega)
  exact ⟨.regRead a, rfl⟩

theorem decodeTAV_of_length (r : Bytes) (h : requiredLength (opRegWrite :: r) = some (r.length + 1)) :
    ∃ j, decodeTAV r = .ok j := by
  have hn : 3 = r.length + 1 := Option.some.inj h
  obtain ⟨a, v, rfl⟩ := List.length_eq_two.1 (show r.length = 2 by omega)
  exact ⟨.regWrite a v, rfl⟩

/-- A token with a defined opcode decodes exactly when it has its required length. -/
theorem decodes_iff_requiredLength (op : Byte) (r : Bytes) (hr : isReserved (op :: r) = false) :
    (∃ i, decode .cmd (op :: r) = .ok i) ↔ requiredLength (op :: r) = some (op :: r).length := by
  constructor
  · rintro ⟨i, hi⟩
    obtain ⟨henc, hport, hwf⟩ := (decode_ok_iff _ _ _).1 hi
    obtain ⟨hlen, hreq⟩ := encodedLength i hwf
    rw [henc] at hlen hreq
    rw [hlen, hreq hport hr]
  · intro h
    rw [List.length_cons] at h
    rcases opcode_cases op r hr with rfl | rfl | rfl | rfl | rfl | rfl | rfl | rfl | rfl
    · exact decodeT0_of_length .reset _ r (.inl rfl) h
    · exact decodeTL_of_length .ckCompute _ r (.inl rfl) h
    · exact decodeTL_of_length .ckVerify _ r (.inr (.inl rfl)) h
    · exact decodeTX_of_length r h
    · exact decodeTL_of_length .rxFeed _ r (.inr (.inr rfl)) h
    · exact decodeT0_of_length .rxFlush _ r (.inr (.inl rfl)) h
    · exact decodeT0_of_length .rxDisarm _ r (.inr (.inr rfl)) h
    · exact decodeTA_of_length r h
    · exact decodeTAV_of_length r h

theorem isReserved_cons (op : Byte) (r : Bytes) : isReserved (op :: r) = true ↔
    op ∉ ([0x01, 0x08, 0x09, 0x10, 0x20, 0x21, 0x22, 0x30, 0x31] : Bytes) := by
  rw [isReserved, Bool.not_eq_true', ← Bool.not_eq_true, List.contains_iff_mem]
  rfl

/-! ### The checksum and the footer of a frame (30_encoding R71, R72) -/

theorem sum8_sealed (x : Bytes) : sum8 (sealed x) = 0 := by
  apply BitVec.eq_of_toNat_eq
  rw [sum8_toNat, sealed, byteSum_append, byteSum_singleton, ck_sum]
  rfl

/-- Settles O54: both wire layouts are closed by the checksum of what stands before it. -/
theorem wireFramesSumToZero : Obligations.WireFramesSumToZero := by
  unfold Obligations.WireFramesSumToZero
  intro i _ hp
  cases i with
  | frameRequest | frameResponseAck | frameResponseNak => exact sum8_sealed _
  | reset | ckCompute | ckVerify | txBuild | rxFeed | rxFlush | rxDisarm | regRead | regWrite
  | reservedOpcode => cases hp

/-- The footer pair after data that has none is the first pair. -/
theorem findPair_footer (d rest : Bytes) (h : pairFree d = true) :
    findPair (d ++ ESC :: ETX :: rest) = some d.length := by
  rw [findPair_eq_some]
  refine ⟨by simp [PairAt], fun j hj ⟨hesc, hetx⟩ => ?_⟩
  rcases Nat.lt_or_ge (j + 1) d.length with hin | hend
  · rw [List.getElem?_append_left hj] at hesc
    rw [List.getElem?_append_left hin] at hetx
    exact (pairFree_iff d).1 h j ⟨hesc, hetx⟩
  · rw [show j + 1 = d.length by omega] at hetx
    simp [ESC, ETX] at hetx

theorem findFooter_responseFrame (t m st c : Byte) (d : Bytes) (h : pairFree d = true) :
    findFooter (responseFrame t m st c d) = some (d.length + 5) := by
  have hdrop : (responseFrame t m st c d).drop footerFrom =
      d ++ ESC :: ETX :: [ck ([ESC, t, m, st, c] ++ d ++ [ESC, ETX])] := by
    simp [responseFrame, sealed, footerFrom]
  rw [findFooter, hdrop, findPair_footer d _ h]
  rfl

end Sys2Proof

namespace Sys2Proof.Machine

/-! ### Tokens answered ILLEGAL (30_encoding R83, R84) -/

theorem answersIllegal_of_performToken {t : Bytes}
    (h : ∀ s, performToken t s = .next (turnAway .illegal s)) : AnswersIllegal t :=
  fun s rest hin => (step_cons s _ rest hin).trans (h _)

theorem answersIllegal_of_error {t : Bytes} {e : Reject} (h : decode .cmd t = .error e) :
    AnswersIllegal t :=
  answersIllegal_of_performToken fun s => by simp only [performToken, h]

/-- Settles O37: such a token decodes to the reserved row, whose meaning is ILLEGAL. -/
theorem reservedTokensAreIllegal : Obligations.ReservedTokensAreIllegal := by
  unfold Obligations.ReservedTokensAreIllegal
  refine ⟨fun t ht => ?_, fun t s => rfl⟩
  have hr : isReserved t = true := by
    rcases ht with rfl | ⟨op, r, rfl, hop⟩
    · rfl
    · exact (isReserved_cons op r).2 hop
  have hd : decode .cmd t = .ok (.reservedOpcode t) := decodeToken_reserved t hr
  exact ⟨hd, answersIllegal_of_performToken (performToken_of_decode hd)⟩

/-- Settles O38: the required length is the only length that decodes, and the decoder rejects for no other
reason than the length. -/
theorem wrongLengthIsIllegal : Obligations.WrongLengthIsIllegal := by
  unfold Obligations.WrongLengthIsIllegal
  intro op r hop
  have hr : isReserved (op :: r) = false :=
    Bool.eq_false_iff.2 fun h => (isReserved_cons op r).1 h hop
  have hiff := decodes_iff_requiredLength op r hr
  refine ⟨fun hne => ?_, hiff.2⟩
  have hbad : decode .cmd (op :: r) = .error .badLength := by
    cases h : decode .cmd (op :: r) with
    | ok i => exact absurd (hiff.1 ⟨i, h⟩) hne
    | error e => rw [decodeToken_error (op :: r) e h]
  exact ⟨hbad, answersIllegal_of_error hbad⟩

/-! ### The READY flags byte (30_encoding R93) -/

theorem readyFlags_bit0 (st : Byte) : (readyFlags st).getLsbD 0 = isSuccess st := by
  unfold readyFlags
  cases isSuccess st <;> cases isKnown st <;> rfl

theorem readyFlags_bit1 (st : Byte) : (readyFlags st).getLsbD 1 = isKnown st := by
  unfold readyFlags
  cases isSuccess st <;> cases isKnown st <;> rfl

theorem readyFlags_high (st : Byte) (i : Nat) (h : 2 ≤ i) : (readyFlags st).getLsbD i = false := by
  have hle := readyFlags_le st
  have hpow : 2 ^ 2 ≤ 2 ^ i := Nat.pow_le_pow_right (by decide) h
  exact Nat.testBit_lt_two_pow (by omega)

/-- Settles O21: bit 0 is the test for success, bit 1 the test for the codes of R102. -/
theorem readyFlagsByte : Obligations.ReadyFlagsByte := by
  unfold Obligations.ReadyFlagsByte
  intro st
  refine ⟨?_, ?_, readyFlags_high st⟩
  · rw [readyFlags_bit0, isSuccess, beq_iff_eq]
  · rw [readyFlags_bit1, isKnown, List.contains_iff_mem]
    rfl

/-! ### A frame fed to the reassembler (30_encoding R71, R76) -/

/-- A header whose kind is neither ACK nor NAK is bad. -/
theorem headerGood_eq_false (b : Bytes) (hack : b[1]? ≠ some ACK) (hnak : b[1]? ≠ some NAK) :
    headerGood b = false := by
  match b with
  | [] | [_] => simp [headerGood, byteAt, ESC, ACK, NAK]
  | a :: t :: r =>
    have ha : t ≠ ACK := fun h => hack (congrArg some h)
    have hn : t ≠ NAK := fun h => hnak (congrArg some h)
    simp [headerGood, ha, hn]

/-- A chunk that fits and completes a bad header discards and returns all bytes (42_rx_reassembler R145). -/
theorem feed_badHeader (cap : Nat) (chunk : Bytes) (s : State) (hfit : s.rxbuf.length + chunk.length ≤ cap)
    (h8 : 8 ≤ (s.rxbuf ++ chunk).length) (hh : headerGood (s.rxbuf ++ chunk) = false) :
    feed cap chunk s = respond (.invHeader (s.rxbuf ++ chunk)) (disarm { s with rxbuf := [] }) :=
  feed_of_evaluate cap chunk s hfit _ _ (evaluate_badHeader _ h8 hh)

/-- Settles O28: an echoed request has the kind STX, and a payload byte brings it to 8 bytes. -/
theorem echoedRequestIsRejected : Obligations.EchoedRequestIsRejected := by
  unfold Obligations.EchoedRequestIsRejected
  refine ⟨fun chunk s hfit h8 hack hnak => ?_, fun m c p s hp hs hfit => ?_⟩
  · have hbad := feed_badHeader _ chunk s hfit h8 (headerGood_eq_false _ hack hnak)
    exact ⟨_, ((Receives.rxFeed chunk).exec_eq s).trans (congrArg _ hbad), rfl, rfl⟩
  · have hpos : 0 < p.length := List.length_pos_iff.2 hp
    rw [(Receives.rxFeed _).exec_eq, feed_badHeader _ _ s (by simp [hs, hfit]) (by simp [hs]; omega)
      (by rw [hs]; rfl)]
    simp [respond, disarm, Response.toBytes, counted, hs]

theorem headerGood_responseFrame (t m st c : Byte) (d : Bytes) (ht : ResponseKind t) :
    headerGood (responseFrame t m st c d) = true := by
  rcases ht with rfl | rfl <;> rfl

/-- A response frame with no pair in its data is found whole, and verifies. -/
theorem evaluate_responseFrame (t m st c : Byte) (d : Bytes) (ht : ResponseKind t)
    (h : pairFree d = true) :
    evaluate (responseFrame t m st c d) = (.frame (responseFrame t m st c d), []) := by
  have hlen := responseFrame_length t m st c d
  have hcand := evaluate_candidate _ _ (findFooter_responseFrame t m st c d h) (by omega)
    (headerGood_responseFrame t m st c d ht)
  rw [hcand, List.take_of_length_le (by omega), List.drop_of_length_le (by omega)]
  rw [responseFrame, verify_sealed, if_pos rfl]

theorem readyOf_responseFrame (t m st c : Byte) (d : Bytes) :
    (readyOf (responseFrame t m st c d)).toBytes = readyToken t m st c d := by
  simp only [readyOf, responseFrame_byte1, responseFrame_byte2, responseFrame_byte3,
    responseFrame_byte4, responseFrame_data]
  rfl

theorem deliver_ready (x : Bytes) (s : State) (h : Awaits s (byteAt x 4)) :
    deliver x s = respond (readyOf x) (disarm s) := by
  rcases h with h | ⟨ha, he⟩
  · simp [deliver, h]
  · simp [deliver, ha, he]

theorem deliver_unsolicited (x : Bytes) (s : State) (hc : s.corrEn = true) (ha : s.armed = false) :
    deliver x s = respond (.invUnsolicited x) s := by
  simp [deliver, hc, ha]

theorem deliver_mismatch (x : Bytes) (s : State) (hc : s.corrEn = true) (ha : s.armed = true)
    (he : byteAt x 4 ≠ s.expect) : deliver x s = respond (.invMismatch x) (disarm s) := by
  simp [deliver, hc, ha, he]

/-- On an empty RXBUF a response frame that fits and has no pair in its data is delivered. -/
theorem feed_responseFrame (cap : Nat) (t m st c : Byte) (d : Bytes) (s : State) (ht : ResponseKind t)
    (hd : pairFree d = true) (hs : s.rxbuf = []) (hfit : d.length + 8 ≤ cap) :
    feed cap (responseFrame t m st c d) s = deliver (responseFrame t m st c d) s := by
  have he : evaluate (s.rxbuf ++ responseFrame t m st c d) = (.frame (responseFrame t m st c d), []) := by
    rw [hs, List.nil_append, evaluate_responseFrame t m st c d ht hd]
  rw [feed_of_evaluate cap _ s (by simp [hs, hfit]) _ _ he, ← hs]
  rfl

/-! ### The wire rows (log 5) -/

/-- Settles O56: both rows feed their own encoding, which fits and is delivered, or is FULL. -/
theorem frameResponsesAreReported : Obligations.FrameResponsesAreReported := by
  unfold Obligations.FrameResponsesAreReported
  intro i k m st c d s hi
  obtain ⟨hkind, henc, hrec⟩ : ResponseKind k ∧ encode i = responseFrame k m st c d ∧
      Receives i (encode i) := by
    rcases hi with ⟨rfl, rfl⟩ | ⟨rfl, rfl⟩
    · exact ⟨.inl rfl, rfl, .ack m st c d⟩
    · exact ⟨.inr rfl, rfl, .nak m st c d⟩
  refine ⟨by rw [hrec.exec_eq, (Receives.rxFeed (encode i)).exec_eq], fun hs =>
    ⟨fun hfull => ?_, fun hfit hd => ?_⟩⟩
  · rw [hrec.exec_eq, henc, feed_full _ _ _ (by simp [hs, hfull])]
    rfl
  rw [hrec.exec_eq, henc, feed_responseFrame _ k m st c d s hkind hd hs hfit]
  refine ⟨fun hw => ?_, fun hc ha => ?_, fun hc ha hne => ?_⟩
  · rw [deliver_ready (responseFrame k m st c d) s hw]
    simp [respond, disarm, readyOf_responseFrame]
  · rw [deliver_unsolicited _ s hc ha]
    simp [respond, Response.toBytes, counted]
  · rw [deliver_mismatch (responseFrame k m st c d) s hc ha hne.symm]
    simp [respond, disarm, Response.toBytes, counted]

/-- Settles O55: the row builds and sends the frame of its fields. -/
theorem frameRequestIsSent : Obligations.FrameRequestIsSent := by
  unfold Obligations.FrameRequestIsSent
  intro m c p s
  rw [(Sends.frameRequest m c p).exec_eq]
  rcases buildAndSend_cases m c p s with ⟨hc, ha, e⟩ | ⟨hfree, e⟩ <;> rw [e]
  · rw [if_pos ⟨hc, ha⟩]
    rfl
  · rw [if_neg (by rintro ⟨hc, ha⟩; simp [hc, ha] at hfree)]
    cases hc : s.corrEn <;> simp [arm, respond, emit, hc, encode, Response.toBytes]

/-! ### The lines of the assembler (30_encoding R95) -/

/-- The start of a line before its operands: a mnemonic and one blank. -/
theorem lexLine_row (pre mn rest : List Char)
    (h : pre = mn ++ [' '] ∧ mn.all isPlain = true ∧ mn ≠ []) :
    lexLine [] (pre ++ rest) = .word mn :: lexLine [] rest := by
  obtain ⟨rfl, hp, hne⟩ := h
  rw [List.append_assoc]
  exact lexLine_mnemonic mn rest hp hne

/-- A line of a mnemonic and one list. -/
theorem parseLine_listRow {pre : List Char} (mn : List Char) {mk : Bytes → Instr} {bs : Bytes}
    {ts : List Char} (hmn : pre = mn ++ [' '] ∧ mn.all isPlain = true ∧ mn ≠ [])
    (hops : ∀ r, parseOps mn (.lbracket :: r) = (byteList (.lbracket :: r)).map fun x => [mk x])
    (ht : ListText bs ts) (hw : (mk bs).wf = true) : parseLine (pre ++ ts) = some [mk bs] := by
  obtain ⟨r, hr, hbs⟩ := listText_spec bs ts ht
  refine parseLine_eq _ mn _ _ (lexLine_row pre mn ts hmn) ?_ (by simp [hw])
  rw [hr] at hbs ⊢
  rw [hops, hbs]
  rfl

theorem parseLine_txBuildRow (m c : Byte) (bs : Bytes) (ms cs ts : List Char) (hm : ByteText m ms)
    (hc : ByteText c cs) (ht : ListText bs ts) (hw : (Instr.txBuild m c bs).wf = true) :
    parseLine ("TX_BUILD ".toList ++ (ms ++ ',' :: ' ' :: (cs ++ ',' :: ' ' :: ts))) =
      some [.txBuild m c bs] := by
  obtain ⟨hml, -, hmp, hmne⟩ := byteText_spec m ms hm
  obtain ⟨hcl, -, hcp, hcne⟩ := byteText_spec c cs hc
  obtain ⟨-, -, hbs⟩ := listText_spec bs ts ht
  have hlex := lexLine_row "TX_BUILD ".toList "TX_BUILD".toList
    (ms ++ ',' :: ' ' :: (cs ++ ',' :: ' ' :: ts)) (by decide)
  rw [lexLine_comma ms _ hmp hmne, lexLine_comma cs _ hcp hcne] at hlex
  refine parseLine_eq _ _ _ _ hlex ?_ (by simp [hw])
  rw [parseOps_txBuild, hml, hcl, hbs]
  rfl

theorem parseOps_regRead (a : List Char) :
    parseOps "REG_READ".toList [.word a] = (address a).map fun x => [.regRead x] := rfl

theorem parseOps_regWrite (a v : List Char) :
    parseOps "REG_WRITE".toList [.word a, .comma, .word v] =
      (address a).bind fun x => (byteLit v).map fun y => [.regWrite x y] := rfl

theorem parseLine_regReadRow (a : Byte) (cs : List Char) (ha : AddrText a cs) :
    parseLine ("REG_READ ".toList ++ cs) = some [.regRead a] := by
  obtain ⟨haddr, hp, hne⟩ := addrText_spec a cs ha
  have hlex := lexLine_row "REG_READ ".toList "REG_READ".toList cs (by decide)
  rw [lexLine_last cs hp hne] at hlex
  exact parseLine_eq _ _ _ _ hlex (by rw [parseOps_regRead, haddr]; rfl) rfl

theorem parseLine_regWriteRow (a v : Byte) (cs vs : List Char) (ha : AddrText a cs) (hv : ByteText v vs) :
    parseLine ("REG_WRITE ".toList ++ (cs ++ ',' :: ' ' :: vs)) = some [.regWrite a v] := by
  obtain ⟨haddr, hap, hane⟩ := addrText_spec a cs ha
  obtain ⟨hlit, -, hvp, hvne⟩ := byteText_spec v vs hv
  have hlex := lexLine_row "REG_WRITE ".toList "REG_WRITE".toList (cs ++ ',' :: ' ' :: vs) (by decide)
  rw [lexLine_comma cs _ hap hane, lexLine_last vs hvp hvne] at hlex
  exact parseLine_eq _ _ _ _ hlex (by rw [parseOps_regWrite, haddr, hlit]; rfl) rfl

/-- Every line of R95 whose instruction is well formed parses to it. -/
theorem parseLine_asmRow {line : List Char} {i : Instr} {t : Bytes} (h : AsmRow line i t)
    (hw : i.wf = true) : parseLine line = some [i] := by
  cases h with
  | reset | rxFlush | rxDisarm => decide
  | ckCompute bs ts ht =>
    exact parseLine_listRow "CK_COMPUTE".toList (mk := .ckCompute) (by decide) (fun _ => rfl) ht hw
  | ckVerify bs ts ht =>
    exact parseLine_listRow "CK_VERIFY".toList (mk := .ckVerify) (by decide) (fun _ => rfl) ht hw
  | rxFeed bs ts ht =>
    exact parseLine_listRow "RX_FEED".toList (mk := .rxFeed) (by decide) (fun _ => rfl) ht hw
  | txBuild m c bs ms cs ts hm hc ht => exact parseLine_txBuildRow m c bs ms cs ts hm hc ht hw
  | regRead a cs ha => exact parseLine_regReadRow a cs ha
  | regWrite a v cs vs ha hv => exact parseLine_regWriteRow a v cs vs ha hv

/-- The token column of R95 is the encoding of the row's instruction. -/
theorem asmRow_token {line : List Char} {i : Instr} {t : Bytes} (h : AsmRow line i t) :
    encode i = t ∧ i.port = .cmd := by
  cases h <;> exact ⟨rfl, rfl⟩

theorem exists_itemsText (b : Byte) (bs : Bytes) : ∃ ts, ItemsText (b :: bs) ts := by
  induction bs generalizing b with
  | nil => exact ⟨_, .one b _ (.inr rfl)⟩
  | cons b' bs ih =>
    obtain ⟨ts, ht⟩ := ih b'
    exact ⟨_, .more b _ _ ts (.inr rfl) ht⟩

theorem exists_listText (bs : Bytes) : ∃ ts, ListText bs ts := by
  cases bs with
  | nil => exact ⟨_, .inl ⟨rfl, rfl⟩⟩
  | cons b bs =>
    obtain ⟨ts, ht⟩ := exists_itemsText b bs
    exact ⟨_, .inr ⟨ts, ht, rfl⟩⟩

/-- Every command-port row but the reserved one has a line, its bytes in decimal. -/
theorem exists_asmRow (i : Instr) (hp : i.port = .cmd) (hr : ∀ t, i ≠ .reservedOpcode t) :
    ∃ line t, AsmRow line i t := by
  cases i with
  | reset => exact ⟨_, _, .reset⟩
  | ckCompute bs => obtain ⟨ts, ht⟩ := exists_listText bs; exact ⟨_, _, .ckCompute bs ts ht⟩
  | ckVerify bs => obtain ⟨ts, ht⟩ := exists_listText bs; exact ⟨_, _, .ckVerify bs ts ht⟩
  | txBuild m c bs =>
    obtain ⟨ts, ht⟩ := exists_listText bs
    exact ⟨_, _, .txBuild m c bs (decText m) (decText c) ts (.inr rfl) (.inr rfl) ht⟩
  | rxFeed bs => obtain ⟨ts, ht⟩ := exists_listText bs; exact ⟨_, _, .rxFeed bs ts ht⟩
  | rxFlush => exact ⟨_, _, .rxFlush⟩
  | rxDisarm => exact ⟨_, _, .rxDisarm⟩
  | regRead a => exact ⟨_, _, .regRead a (decText a) (.inl (.inr rfl))⟩
  | regWrite a v => exact ⟨_, _, .regWrite a v (decText a) (decText v) (.inl (.inr rfl)) (.inr rfl)⟩
  | reservedOpcode t => exact absurd rfl (hr t)
  | frameRequest | frameResponseAck | frameResponseNak => cases hp

/-! ### What the assembler reads -/

/-- A reading, if it succeeds, gives command-port instructions only. -/
def ReadsCommands (o : Option (List Instr)) : Prop := ∀ is, o = some is → ∀ i ∈ is, i.port = .cmd

theorem readsCommands_none : ReadsCommands none := fun _ h => by cases h

theorem readsCommands_some {is : List Instr} (h : ∀ i ∈ is, i.port = .cmd) : ReadsCommands (some is) := by
  rintro _ ⟨⟩
  exact h

theorem readsCommands_ite {p : Prop} [Decidable p] {a b : Option (List Instr)} (ha : ReadsCommands a)
    (hb : ReadsCommands b) : ReadsCommands (if p then a else b) := by
  split
  · exact ha
  · exact hb

theorem readsCommands_bind {α : Type} {o : Option α} {f : α → Option (List Instr)}
    (h : ∀ x, ReadsCommands (f x)) : ReadsCommands (o.bind f) := by
  cases o with
  | none => exact readsCommands_none
  | some x => exact h x

theorem readsCommands_map {α : Type} {o : Option α} {f : α → List Instr}
    (h : ∀ x, ∀ i ∈ f x, i.port = .cmd) : ReadsCommands (o.map f) := by
  cases o with
  | none => exact readsCommands_none
  | some x => exact readsCommands_some (h x)

theorem expand_port (p : Pseudo) : ∀ i ∈ expand p, i.port = .cmd := by
  cases p <;> simp [expand, Instr.port]

theorem port_singleton {i : Instr} (h : i.port = .cmd) : ∀ j ∈ [i], j.port = .cmd := by
  intro j hj
  rw [List.mem_singleton.1 hj, h]

/-- Every mnemonic reads to command-port instructions: the wire rows have no line. -/
theorem parseOps_readsCommands (mn : List Char) (ops : List Lexeme) : ReadsCommands (parseOps mn ops) := by
  have hpseudo : ∀ f : Byte → Pseudo, ∀ x, ∀ i ∈ expand (f x), i.port = .cmd :=
    fun f x => expand_port (f x)
  unfold parseOps
  split
  · -- the mnemonics alone
    exact readsCommands_ite (readsCommands_some (port_singleton rfl)) <|
      readsCommands_ite (readsCommands_some (port_singleton rfl)) <|
      readsCommands_ite (readsCommands_some (port_singleton rfl)) <|
      readsCommands_ite (readsCommands_some (expand_port .rxAbort)) <|
      readsCommands_ite (readsCommands_some (expand_port .rxDrain)) readsCommands_none
  · -- one word
    exact readsCommands_ite (readsCommands_map fun _ => port_singleton rfl) <|
      readsCommands_ite (readsCommands_map (hpseudo .handshake)) <|
      readsCommands_ite (readsCommands_map (hpseudo .commit)) <|
      readsCommands_ite (readsCommands_map (hpseudo .start)) <|
      readsCommands_ite (readsCommands_map (hpseudo .stop)) <|
      readsCommands_ite (readsCommands_map (hpseudo .trigger)) readsCommands_none
  · -- two words
    exact readsCommands_ite
      (readsCommands_bind fun _ => readsCommands_map fun _ => port_singleton rfl) readsCommands_none
  · -- two words and a list
    exact readsCommands_ite (readsCommands_bind fun _ => readsCommands_bind fun _ =>
      readsCommands_map fun _ => port_singleton rfl) readsCommands_none
  · -- a word and a list
    exact readsCommands_ite
      (readsCommands_bind fun m => readsCommands_map fun w => expand_port (.sendInfo m w)) readsCommands_none
  · -- a list
    exact readsCommands_ite (readsCommands_map fun _ => port_singleton rfl) <|
      readsCommands_ite (readsCommands_map fun _ => port_singleton rfl) <|
      readsCommands_ite (readsCommands_map fun _ => port_singleton rfl) readsCommands_none

/-- A line that parses reads to well-formed command-port instructions. -/
theorem parseLine_sound {line : List Char} {is : List Instr} (h : parseLine line = some is) :
    ∀ i ∈ is, i.port = .cmd ∧ i.wf = true := by
  unfold parseLine at h
  split at h
  · cases h
    intro i hi
    cases hi
  · next mn ops _ =>
    obtain ⟨js, hjs, h⟩ := Option.bind_eq_some_iff.1 h
    split at h
    · next hall =>
      cases h
      exact fun i hi => ⟨parseOps_readsCommands mn ops is hjs i hi, List.all_eq_true.1 hall i hi⟩
    · cases h
  · cases h

theorem assemble_of_parseLine {line : List Char} {is : List Instr} (h : parseLine line = some is) :
    assemble line = some (is.map encode) := by
  rw [assemble, h]
  rfl

/-- Settles O58: a line parses to its instruction, the token column is the encoding, and the assembler reads
well-formed command-port instructions only, which decoding gives back. -/
theorem assembledTokensDecode : Obligations.AssembledTokensDecode := by
  unfold Obligations.AssembledTokensDecode
  refine ⟨fun line i t hrow hw => ?_, fun i _ hp hr => exists_asmRow i hp hr, fun line comment => ?_,
    fun line is h => ⟨assemble_of_parseLine h, fun i hi => ?_⟩⟩
  · obtain ⟨rfl, hp⟩ := asmRow_token hrow
    have hparse := parseLine_asmRow hrow hw
    exact ⟨hparse, assemble_of_parseLine hparse, decode_cmd_encode hp hw⟩
  · rw [parseLine, parseLine, lexLine_comment]
  · obtain ⟨hp, hw⟩ := parseLine_sound h i hi
    exact decode_cmd_encode hp hw

/-! ### The pseudo-operations (30_encoding R96) -/

/-- A line of a mnemonic and one byte. -/
theorem parseLine_byteRow {pre : List Char} (mn : List Char) {f : Byte → List Instr} {m : Byte}
    {ms : List Char} (hmn : pre = mn ++ [' '] ∧ mn.all isPlain = true ∧ mn ≠ [])
    (hops : ∀ a, parseOps mn [.word a] = (byteLit a).map f)
    (hm : ByteText m ms) (hw : ∀ i ∈ f m, i.wf = true) : parseLine (pre ++ ms) = some (f m) := by
  obtain ⟨hlit, -, hp, hne⟩ := byteText_spec m ms hm
  have hlex := lexLine_row pre mn ms hmn
  rw [lexLine_last ms hp hne] at hlex
  exact parseLine_eq _ mn _ _ hlex (by rw [hops, hlit]; rfl) (List.all_eq_true.2 hw)

theorem parseLine_sendInfoRow (m : Byte) (w : Bytes) (ms ts : List Char) (hm : ByteText m ms)
    (ht : ListText w ts) (hw : ∀ i ∈ expand (.sendInfo m w), i.wf = true) :
    parseLine ("SEND_INFO ".toList ++ (ms ++ ',' :: ' ' :: ts)) = some (expand (.sendInfo m w)) := by
  obtain ⟨hml, -, hmp, hmne⟩ := byteText_spec m ms hm
  obtain ⟨r, hr, hw'⟩ := listText_spec w ts ht
  have hlex := lexLine_row "SEND_INFO ".toList "SEND_INFO".toList (ms ++ ',' :: ' ' :: ts) (by decide)
  rw [lexLine_comma ms _ hmp hmne, hr] at hlex
  rw [hr] at hw'
  refine parseLine_eq _ _ _ _ hlex ?_ (List.all_eq_true.2 hw)
  rw [parseOps_sendInfo, hml, hw']
  rfl

/-- Settles O59: one lemma per shape of line, for every text of its operands. -/
theorem pseudoOperationLinesParse : Obligations.PseudoOperationLinesParse := by
  unfold Obligations.PseudoOperationLinesParse
  intro line p hrow hw
  cases hrow with
  | handshake m ms hm => exact parseLine_byteRow "HANDSHAKE".toList (by decide) (fun _ => rfl) hm hw
  | commit m ms hm => exact parseLine_byteRow "COMMIT".toList (by decide) (fun _ => rfl) hm hw
  | start m ms hm => exact parseLine_byteRow "START".toList (by decide) (fun _ => rfl) hm hw
  | stop m ms hm => exact parseLine_byteRow "STOP".toList (by decide) (fun _ => rfl) hm hw
  | trigger m ms hm => exact parseLine_byteRow "TRIGGER".toList (by decide) (fun _ => rfl) hm hw
  | sendInfo m w ms ts hm ht => exact parseLine_sendInfoRow m w ms ts hm ht hw
  | rxAbort | rxDrain => decide

/-- Settles O57: the commands are TX_BUILDs with fixed command ids, and RX_ABORT is two commands in order. -/
theorem pseudoOperationsExpand : Obligations.PseudoOperationsExpand := by
  unfold Obligations.PseudoOperationsExpand
  refine ⟨fun _ => rfl, fun _ => rfl, fun _ => rfl, fun _ => rfl, fun _ => rfl, fun m w => ?_, rfl,
    fun s => ?_⟩
  · have hlen : (infoPayload w).length = w.length + 3 := by simp [infoPayload]; omega
    simp only [expand, List.map_cons, List.map_nil, encode, hlen]
    simp only [infoPayload, List.append_assoc]
    rfl
  · have hflush : exec .rxFlush s = .next (respond .ok { s with rxbuf := [] }) := rfl
    rw [expand, execAll_cons hflush, execAll_cons (t := respond .ok (disarm _)) rfl]
    simp [execAll, respond, disarm, Response.toBytes]

end Sys2Proof.Machine
end

section
/-! PROOFS of 40_checksum: the checksum is the byte that brings a sum to 0 mod 256, so a sequence
verifies exactly when it is not empty and sums to 0 mod 256; what the checksum detects and misses, the
frames of TX_BUILD and the two commands are read off that. -/

namespace Sys2Proof

/-! ### The checksum and the sum (40_checksum R120, R123) -/

theorem ck_eq_ofNat (s : Bytes) : ck s = BitVec.ofNat 8 (0x100 - byteSum s % 256) := by
  rw [ck, sum8_toNat]

theorem ck_toNat (s : Bytes) : (ck s).toNat = (0x100 - byteSum s % 256) % 256 := by
  rw [ck_eq_ofNat, BitVec.toNat_ofNat]

/-- The checksum is the only byte that brings the sum to 0 mod 256. -/
theorem ck_eq_iff_sum (x : Bytes) (k : Byte) : ck x = k ↔ (byteSum x + k.toNat) % 256 = 0 := by
  constructor
  · rintro rfl; exact ck_sum x
  · intro h
    have hk := k.isLt
    apply BitVec.eq_of_toNat_eq
    rw [ck_toNat]; omega

theorem verify_concat_iff (x : Bytes) (k : Byte) : verify (x ++ [k]) = true ↔ ck x = k := by
  rw [verify_concat, beq_iff_eq]

/-- Validity depends on nothing but the sum mod 256, and on there being a byte at all. -/
theorem verify_iff_byteSum (f : Bytes) : verify f = true ↔ f ≠ [] ∧ byteSum f % 256 = 0 := by
  rcases List.eq_nil_or_concat' f with rfl | ⟨x, k, rfl⟩
  · simp
  · rw [verify_concat_iff, ck_eq_iff_sum, byteSum_append, byteSum_singleton]
    simp

theorem sum8_eq_zero_iff (f : Bytes) : sum8 f = 0 ↔ byteSum f % 256 = 0 := by
  rw [← BitVec.toNat_inj, sum8_toNat]; rfl

/-- Settles O9: `sum8` is the sum whose vanishing `verify` tests. -/
theorem verifyIffSumIsZero : Obligations.VerifyIffSumIsZero := by
  unfold Obligations.VerifyIffSumIsZero
  intro f hne
  rw [verify_iff_byteSum, sum8_eq_zero_iff, and_iff_right hne]

/-- Settles O6: `verify` compares the last byte with the checksum of the others, as integers. -/
theorem checksumFunction : Obligations.ChecksumFunction := by
  unfold Obligations.ChecksumFunction
  refine ⟨ck_toNat, verify_nil, fun x k => ?_⟩
  rw [verify_concat_iff, ← ck_toNat, BitVec.toNat_inj, eq_comm]

/-! ### Error detection (40_checksum R125) -/

theorem verify_congr {f g : Bytes} (hnil : f = [] ↔ g = [])
    (hsum : byteSum f % 256 = byteSum g % 256) : verify f = verify g := by
  rw [Bool.eq_iff_iff, verify_iff_byteSum, verify_iff_byteSum, hsum, ne_eq, ne_eq, hnil]

theorem byteSum_set (f : Bytes) (i : Nat) (b : Byte) (h : i < f.length) :
    byteSum (f.set i b) + f[i].toNat = byteSum f + b.toNat := by
  induction f generalizing i with
  | nil => simp at h
  | cons a f ih =>
    cases i with
    | zero => simp [byteSum]; omega
    | succ i =>
      have := ih i (by simpa using h)
      simp [byteSum]; omega

theorem byteSum_eq_of_perm {f g : Bytes} (h : f.Perm g) : byteSum f = byteSum g := by
  induction h with
  | nil => rfl
  | cons a _ ih => simp [byteSum, ih]
  | swap a b s => simp [byteSum]; omega
  | trans _ _ ih₁ ih₂ => exact ih₁.trans ih₂

/-- Two bytes differ by less than 256, so changing one byte always moves the sum mod 256. -/
theorem verify_set_eq_false (f : Bytes) (i : Nat) (b : Byte) (h : i < f.length) (hne : f[i] ≠ b)
    (hv : verify f = true) : verify (f.set i b) = false := by
  obtain ⟨-, hsum⟩ := (verify_iff_byteSum f).1 hv
  have hset := byteSum_set f i b h
  have hval : f[i].toNat ≠ b.toNat := fun e => hne (BitVec.eq_of_toNat_eq e)
  have hold := f[i].isLt
  have hnew := b.isLt
  rw [← Bool.not_eq_true, verify_iff_byteSum]
  rintro ⟨-, hsum'⟩
  omega

/-- Settles O11: changing one byte moves the sum mod 256; a reordering, a change that keeps the sum and
an inserted 0x00 leave it. -/
theorem checksumDetection : Obligations.ChecksumDetection := by
  unfold Obligations.ChecksumDetection
  refine ⟨fun f i b h hne hv => ?oneByte, fun f g h => ?reordered, fun f g hf hg h => ?sameSum,
    fun x y hne => ?zeroInserted⟩
  case oneByte =>
    exact verify_set_eq_false f i b h (fun e => hne (by rw [List.getElem?_eq_getElem h, e])) hv
  case reordered =>
    refine verify_congr ?_ (by rw [byteSum_eq_of_perm h])
    rw [← List.length_eq_zero_iff, ← List.length_eq_zero_iff, h.length_eq]
  case sameSum => exact verify_congr (by simp [hf, hg]) h
  case zeroInserted => exact verify_congr (by simp [hne]) (by simp [byteSum])

end Sys2Proof

namespace Sys2Proof.Machine

/-! ### Emitted frames (40_checksum R124) -/

/-- Settles O10: TX_BUILD sends nothing, or one sealed frame. -/
theorem emittedFramesVerify : Obligations.EmittedFramesVerify := by
  unfold Obligations.EmittedFramesVerify
  intro m c p f s t ht htx hne
  cases ((Sends.txBuild m c p).exec_eq s).symm.trans ht
  rcases buildAndSend_cases m c p s with ⟨-, -, e⟩ | ⟨-, e⟩ <;> rw [e] at htx
  · exact absurd (by simpa using htx) hne
  · have hf : requestFrame m c p = f := by simpa using htx
    rw [← hf]
    exact verify_sealed _

/-! ### The commands (40_checksum R121, R122) -/

/-- Format TL, for every opcode whose tokens `decodeTL` reads. -/
theorem formatTL_of_decodeToken {op : Byte} {mk : Bytes → Instr}
    (h : ∀ r, decodeToken (op :: r) = decodeTL mk r) : FormatTL op mk where
  encoding _ _ _ hlen := (h _).trans (if_pos hlen)
  noLength := ⟨answersIllegal_of_error (h []), fun b => answersIllegal_of_error (h [b])⟩
  wrongLength _ _ _ hlen := answersIllegal_of_error ((h _).trans (if_neg hlen))

theorem exec_ckCompute (bytes : Bytes) (s : State) :
    exec (.ckCompute bytes) s = .next { s with resp := s.resp ++ [[0x00, ck bytes]] } := rfl

theorem exec_ckVerify (frame : Bytes) (s : State) :
    exec (.ckVerify frame) s = .next { s with resp := s.resp ++ [[0x00, bit8 (verify frame)]] } := rfl

theorem bit8_verify_concat (x : Bytes) (k : Byte) :
    bit8 (verify (x ++ [k])) = if k = ck x then 0x01 else 0x00 := by
  simp only [bit8, verify_concat_iff, @eq_comm _ k]

/-- Settles O7: the response is the checksum's value. -/
theorem ckComputeCommand : Obligations.CkComputeCommand := by
  unfold Obligations.CkComputeCommand
  refine ⟨formatTL_of_decodeToken decodeToken_ckCompute, fun bytes s => ?_⟩
  rw [exec_ckCompute, ck_eq_ofNat]

/-- Settles O8: the response is `verify` as a bit, of the empty frame and of a frame with a last byte. -/
theorem ckVerifyCommand : Obligations.CkVerifyCommand := by
  unfold Obligations.CkVerifyCommand
  refine ⟨formatTL_of_decodeToken decodeToken_ckVerify, exec_ckVerify [], fun x k s => ?_⟩
  rw [exec_ckVerify, bit8_verify_concat, ck_eq_ofNat]

end Sys2Proof.Machine
end

section
/-! PROOFS of 41_tx_framer: the token of TX_BUILD, the state it leaves, and the layout of the frame it
emits. Both of its paths commute with replacing RXBUF. -/

namespace Sys2Proof

/-! ### The layout of a sealed sequence (30_encoding R72, 41_tx_framer R131) -/

theorem sealed_take (x : Bytes) : (sealed x).take (x.length + 2) = x ++ [ESC, ETX] :=
  List.take_left' (by simp)

theorem sealed_drop (x : Bytes) : (sealed x).drop x.length = [ESC, ETX, ck (x ++ [ESC, ETX])] := by
  rw [sealed, List.append_assoc]
  exact List.drop_left

theorem requestFrame_take_header (m c : Byte) (p : Bytes) :
    (requestFrame m c p).take 4 = [ESC, STX, m, c] := rfl

theorem requestFrame_drop_header (m c : Byte) (p : Bytes) :
    ((requestFrame m c p).drop 4).take p.length = p := by
  have hslice := requestFrame_payload m c p
  have hlen : p.length + 7 - 4 + 1 - 4 = p.length := by omega
  rwa [requestFrame_length, slice, hlen] at hslice

theorem requestFrame_take_footer (m c : Byte) (p : Bytes) :
    (requestFrame m c p).take (p.length + 6) = [ESC, STX, m, c] ++ p ++ [ESC, ETX] :=
  sealed_take ([ESC, STX, m, c] ++ p)

theorem requestFrame_drop_payload (m c : Byte) (p : Bytes) :
    (requestFrame m c p).drop (p.length + 4) = [ESC, ETX, ck ([ESC, STX, m, c] ++ p ++ [ESC, ETX])] :=
  sealed_drop ([ESC, STX, m, c] ++ p)

end Sys2Proof

namespace Sys2Proof.Machine

/-! ### The token (30_encoding R82, R83) -/

/-- Format TX, for an opcode whose tokens `decodeTX` reads. -/
theorem formatTX_of_decodeToken {op : Byte} (h : ∀ r, decodeToken (op :: r) = decodeTX r) :
    FormatTX op .txBuild where
  encoding _ _ _ _ _ _ hlen := (h _).trans (if_pos hlen)
  noLength r hr := by
    match r, hr with
    | [], _ | [_], _ | [_, _], _ | [_, _, _], _ | [_, _, _, _], _ => exact answersIllegal_of_error (h _)
  wrongLength _ _ _ _ _ _ hlen := answersIllegal_of_error ((h _).trans (if_neg hlen))

/-! ### The state TX_BUILD leaves (41_tx_framer R130) -/

theorem arm_eq (c : Byte) (s : State) :
    arm c s = { s with
      armed := if s.corrEn then true else s.armed
      expect := if s.corrEn then c else s.expect } := by
  split_ifs with h
  · exact arm_on c s h
  · exact arm_off c s (eq_false_of_ne_true h)

/-- With no request outstanding, TX_BUILD is performed. -/
theorem buildAndSend_performed (m c : Byte) (p : Bytes) (s : State)
    (h : ¬ (s.corrEn = true ∧ s.armed = true)) :
    buildAndSend m c p s = respond .ok (arm c (emit (requestFrame m c p) s)) := by
  rcases buildAndSend_cases m c p s with ⟨hc, ha, -⟩ | ⟨-, e⟩
  · exact absurd ⟨hc, ha⟩ h
  · exact e

/-- Settles O12: the token is format TX's; BUSY and the performed command are TX_BUILD's two paths. -/
theorem txBuildCommand : Obligations.TxBuildCommand := by
  unfold Obligations.TxBuildCommand
  refine ⟨formatTX_of_decodeToken decodeToken_txBuild, fun m c p s hc ha => ?busy,
    fun m c p s h => ?performed⟩
  case busy =>
    rw [(Sends.txBuild m c p).exec_eq, buildAndSend_busy m c p s hc ha]
    rfl
  case performed =>
    rw [(Sends.txBuild m c p).exec_eq, buildAndSend_performed m c p s h, arm_eq, ← ck_eq_ofNat]
    rfl

/-- Settles O13: what a performed TX_BUILD emits is the request frame, part by part. -/
theorem emittedFrameLayout : Obligations.EmittedFrameLayout := by
  unfold Obligations.EmittedFrameLayout
  intro m c p s h
  have hexec := (Sends.txBuild m c p).exec_eq s
  rw [buildAndSend_performed m c p s h] at hexec
  refine ⟨_, requestFrame m c p, _, hexec, ?emitted, requestFrame_length m c p,
    requestFrame_take_header m c p, requestFrame_drop_header m c p, requestFrame_drop_payload m c p,
    ?checksum, sum8_sealed _⟩
  case emitted => rw [respond_txout, arm_txout, emit_txout]
  case checksum => rw [requestFrame_take_footer]

/-! ### RXBUF (41_tx_framer R132) -/

theorem buildAndSend_rxbuf (m c : Byte) (p : Bytes) (s : State) :
    (buildAndSend m c p s).rxbuf = s.rxbuf := by
  rcases buildAndSend_cases m c p s with ⟨-, -, e⟩ | ⟨-, e⟩ <;> rw [e]
  · rw [turnAway_rxbuf]
  · rw [respond_rxbuf, arm_rxbuf, emit_rxbuf]

/-- Neither the test for an outstanding request nor what follows it reads RXBUF. -/
theorem buildAndSend_of_other_rxbuf (m c : Byte) (p b : Bytes) (s : State) :
    buildAndSend m c p { s with rxbuf := b } = { buildAndSend m c p s with rxbuf := b } := by
  by_cases h : s.corrEn = true ∧ s.armed = true
  · obtain ⟨hc, ha⟩ := h
    rw [buildAndSend_busy m c p s hc ha, buildAndSend_busy m c p { s with rxbuf := b } hc ha]
    rfl
  · rw [buildAndSend_performed m c p s h, buildAndSend_performed m c p { s with rxbuf := b } h,
      arm_eq, arm_eq]
    rfl

/-- Settles O14: TX_BUILD keeps RXBUF, and commutes with replacing it. -/
theorem txBuildIgnoresRxbuf : Obligations.TxBuildIgnoresRxbuf := by
  unfold Obligations.TxBuildIgnoresRxbuf
  intro m c p b s t ht
  cases ((Sends.txBuild m c p).exec_eq s).symm.trans ht
  refine ⟨buildAndSend_rxbuf m c p s, ?_⟩
  rw [(Sends.txBuild m c p).exec_eq, buildAndSend_of_other_rxbuf]

end Sys2Proof.Machine
end

section
/-! PROOFS of 42_rx_reassembler: one inversion lemma says everything RX_FEED can answer and leave; its
capacity, its minimum length, its checks and its report are one evaluation each. A response frame is
found whole before any later bytes and never in part, from which the drain and the chunking follow. -/

namespace Sys2Proof

/-! ### The header and the candidate frame (42_rx_reassembler R145, R147) -/

theorem getElem?_eq_byteAt {x : Bytes} {i : Nat} (h : i < x.length) : x[i]? = some (byteAt x i) := by
  simp [byteAt, h]

theorem headerGood_iff (b : Bytes) : headerGood b = true ↔ Machine.GoodHeader b := by
  match b with
  | [] | [_] => simp [headerGood, Machine.GoodHeader, byteAt, ESC, ACK, NAK]
  | _ :: _ :: _ => simp [headerGood, Machine.GoodHeader]

theorem headerGood_append (x rest : Bytes) (h : 2 ≤ x.length) : headerGood (x ++ rest) = headerGood x := by
  rw [← Machine.headerGood_take (x ++ rest) x.length h, List.take_left]

theorem pairAt_append_left (x rest : Bytes) (i : Nat) (h : i + 1 < x.length) :
    PairAt (x ++ rest) i ↔ PairAt x i := by
  simp only [PairAt, List.getElem?_append_left h, List.getElem?_append_left (Nat.lt_of_succ_lt h)]

theorem pairAt_append {x : Bytes} {i : Nat} (rest : Bytes) (h : PairAt x i) : PairAt (x ++ rest) i := by
  have hlt : i + 1 < x.length := (List.getElem?_eq_some_iff.1 h.2).1
  exact (pairAt_append_left x rest i hlt).2 h

theorem drop_of_pairAt {x : Bytes} {i : Nat} (h : PairAt x i) :
    x.drop i = ESC :: ETX :: x.drop (i + 2) := by
  obtain ⟨hesc, hetx⟩ := h
  obtain ⟨hi, hesc⟩ := List.getElem?_eq_some_iff.1 hesc
  obtain ⟨hi', hetx⟩ := List.getElem?_eq_some_iff.1 hetx
  rw [List.drop_eq_getElem_cons hi, List.drop_eq_getElem_cons hi', hesc, hetx]

/-- A sequence that verifies and has the footer before its last byte is sealed. -/
theorem eq_sealed_of_verify {x : Bytes} (h3 : 3 ≤ x.length) (hp : PairAt x (x.length - 3))
    (hv : verify x = true) : x = sealed (x.take (x.length - 3)) := by
  obtain ⟨k, hk⟩ : ∃ k, x.drop (x.length - 3 + 2) = [k] :=
    List.length_eq_one_iff.1 (by rw [List.length_drop]; omega)
  have hx : x = x.take (x.length - 3) ++ [ESC, ETX] ++ [k] := by
    conv_lhs => rw [← List.take_append_drop (x.length - 3) x, drop_of_pairAt hp, hk]
    simp
  have hck : ck (x.take (x.length - 3) ++ [ESC, ETX]) = k := by
    rw [hx] at hv
    exact (verify_concat_iff _ k).1 hv
  rw [sealed, hck]
  exact hx

/-- The fields of a sequence of at least five bytes with a good header. -/
theorem eq_header_append_of_headerGood {y : Bytes} (h5 : 5 ≤ y.length) (hh : headerGood y = true) :
    ∃ k m st c d, y = [ESC, k, m, st, c] ++ d := by
  match y, h5 with
  | a :: k :: m :: st :: c :: d, _ =>
    have ha : a = ESC := Option.some.inj ((headerGood_iff _).1 hh).1
    exact ⟨k, m, st, c, d, by rw [ha]; rfl⟩

/-- What an evaluation finds to be a frame is the response frame of its own fields (30_encoding R71). -/
theorem eq_responseFrame_of_verify {x : Bytes} (h8 : minFrame ≤ x.length) (hh : headerGood x = true)
    (hp : PairAt x (x.length - 3)) (hv : verify x = true) :
    ∃ k m st c d, x = responseFrame k m st c d := by
  unfold minFrame at h8
  have hx := eq_sealed_of_verify (by omega) hp hv
  obtain ⟨k, m, st, c, d, hy⟩ := eq_header_append_of_headerGood (y := x.take (x.length - 3))
    (by rw [List.length_take]; omega) (by rw [Machine.headerGood_take x _ (by omega), hh])
  rw [hy] at hx
  exact ⟨k, m, st, c, d, hx⟩

/-! ### A response frame among other bytes (42_rx_reassembler R146, R152, R155) -/

/-- Bytes after a response frame do not move its footer. -/
theorem findFooter_responseFrame_append (t m st c : Byte) (d rest : Bytes) (h : pairFree d = true) :
    findFooter (responseFrame t m st c d ++ rest) = some (d.length + 5) := by
  have hlen := responseFrame_length t m st c d
  obtain ⟨h5, hp, hleast⟩ :=
    (Machine.findFooter_eq_some _ _).1 (findFooter_responseFrame t m st c d h)
  refine (Machine.findFooter_eq_some _ _).2 ⟨h5, pairAt_append rest hp, fun j hj hlt hpj => ?_⟩
  exact hleast j hj hlt ((pairAt_append_left _ rest j (by omega)).1 hpj)

end Sys2Proof

namespace Sys2Proof.Machine

/-- A response frame with no pair in its data is found whole, and the bytes after it are kept. -/
theorem evaluate_responseFrame_append (t m st c : Byte) (d rest : Bytes) (ht : ResponseKind t)
    (h : pairFree d = true) :
    evaluate (responseFrame t m st c d ++ rest) = (.frame (responseFrame t m st c d), rest) := by
  have hlen := responseFrame_length t m st c d
  have hgood : headerGood (responseFrame t m st c d ++ rest) = true := by
    rw [headerGood_append _ rest (by omega), headerGood_responseFrame t m st c d ht]
  rw [evaluate_candidate _ _ (findFooter_responseFrame_append t m st c d rest h)
    (by rw [List.length_append]; omega) hgood]
  rw [List.take_left' (by omega), List.drop_left' (by omega), responseFrame, verify_sealed, if_pos rfl]

/-- A proper part of a response frame from offset 0 on is kept: it is too short, it has no footer, or its
footer's checksum byte is still to come. -/
theorem evaluate_part_of_responseFrame {t m st c : Byte} {d b tail : Bytes} (ht : ResponseKind t)
    (hd : pairFree d = true) (htail : tail ≠ []) (hb : b ++ tail = responseFrame t m st c d) :
    evaluate b = (.incomplete, b) := by
  have hpos : 0 < tail.length := List.length_pos_iff.2 htail
  have hlen : b.length + tail.length = d.length + 8 := by
    rw [← List.length_append, hb, responseFrame_length]
  by_cases h8 : b.length < minFrame
  · exact evaluate_short b h8
  have hgood : headerGood b = true := by
    unfold minFrame at h8
    rw [← headerGood_append b tail (by omega), hb, headerGood_responseFrame t m st c d ht]
  cases hf : findFooter b with
  | none => exact evaluate_noFooter b hf hgood
  | some f =>
    obtain ⟨h5, hp, -⟩ := (findFooter_eq_some b f).1 hf
    obtain ⟨-, -, hleast⟩ :=
      (findFooter_eq_some _ _).1 (findFooter_responseFrame t m st c d hd)
    have hge : d.length + 5 ≤ f := by
      by_contra hlt
      exact hleast f h5 (by omega) (hb ▸ pairAt_append tail hp)
    exact evaluate_noChecksum b f hf (by omega) hgood

/-! ### Everything RX_FEED can answer (42_rx_reassembler R151) -/

/-- `FeedOutcome s chunk r u`: RX_FEED of `chunk` in `s` may answer `r` and leave `u` but for the
response. -/
inductive FeedOutcome (s : State) (chunk : Bytes) : Response → State → Prop
  /-- The chunk does not fit. -/
  | full : FeedOutcome s chunk .full s
  /-- No frame is complete. -/
  | incomplete : FeedOutcome s chunk .incomplete { s with rxbuf := s.rxbuf ++ chunk }
  /-- The header is bad. -/
  | invHeader : FeedOutcome s chunk (.invHeader (s.rxbuf ++ chunk)) (disarm { s with rxbuf := [] })
  /-- The candidate does not verify. -/
  | invChecksum (x rest : Bytes) : s.rxbuf ++ chunk = x ++ rest →
    FeedOutcome s chunk (.invChecksum x) (disarm { s with rxbuf := rest })
  /-- No request is outstanding; ARMED is 0 before and after. -/
  | invUnsolicited (x rest : Bytes) : s.rxbuf ++ chunk = x ++ rest →
    FeedOutcome s chunk (.invUnsolicited x) (disarm { s with rxbuf := rest })
  /-- The outstanding request has another command id. -/
  | invMismatch (x rest : Bytes) : s.rxbuf ++ chunk = x ++ rest →
    FeedOutcome s chunk (.invMismatch x) (disarm { s with rxbuf := rest })
  /-- A response frame is reported by its fields. -/
  | ready (k m st c : Byte) (d rest : Bytes) : s.rxbuf ++ chunk = responseFrame k m st c d ++ rest →
    FeedOutcome s chunk (.ready k m st c (readyFlags st) d) (disarm { s with rxbuf := rest })

theorem readyOf_responseFrame_eq (k m st c : Byte) (d : Bytes) :
    readyOf (responseFrame k m st c d) = .ready k m st c (readyFlags st) d := by
  simp only [readyOf, responseFrame_byte1, responseFrame_byte2, responseFrame_byte3,
    responseFrame_byte4, responseFrame_data]

/-- The report of a verified candidate. -/
theorem deliver_outcome {s : State} {chunk x rest : Bytes} (hb : s.rxbuf ++ chunk = x ++ rest)
    (hx : ∃ k m st c d, x = responseFrame k m st c d) :
    ∃ r u, FeedOutcome s chunk r u ∧ deliver x { s with rxbuf := rest } = respond r u := by
  rcases deliver_cases x { s with rxbuf := rest } with ⟨-, ha, e⟩ | ⟨-, -, -, e⟩ | ⟨-, e⟩
  · exact ⟨_, _, .invUnsolicited x rest hb, by rw [e, disarm_of_not_armed { s with rxbuf := rest } ha]⟩
  · exact ⟨_, _, .invMismatch x rest hb, e⟩
  · obtain ⟨k, m, st, c, d, rfl⟩ := hx
    exact ⟨_, _, .ready k m st c d rest hb, by rw [e, readyOf_responseFrame_eq]⟩

/-- RX_FEED ends in one of these outcomes, and adds its response. -/
theorem feed_outcome (cap : Nat) (chunk : Bytes) (s : State) :
    ∃ r u, FeedOutcome s chunk r u ∧ feed cap chunk s = respond r u := by
  rcases feed_cases cap chunk s with
    ⟨-, e⟩ | ⟨-, e | ⟨-, -, e⟩ | ⟨x, rest, hb, h8, hh, hp, ⟨hv, e⟩ | ⟨-, e⟩⟩⟩
  · exact ⟨_, _, .full, e⟩
  · exact ⟨_, _, .incomplete, e⟩
  · exact ⟨_, _, .invHeader, e⟩
  · rw [e]
    exact deliver_outcome hb (eq_responseFrame_of_verify h8 hh hp hv)
  · exact ⟨_, _, .invChecksum x rest hb, e⟩

/-- ARMED after each outcome (42_rx_reassembler R150). -/
theorem FeedOutcome.armed {s u : State} {chunk : Bytes} {r : Response} (h : FeedOutcome s chunk r u) :
    (r.toBytes = [0x10] ∨ r.toBytes = [0x03] → u.armed = s.armed) ∧
      (r.toBytes ≠ [0x10] → r.toBytes ≠ [0x03] → u.armed = false) := by
  cases h with
  | full => exact ⟨fun _ => rfl, fun _ hne => absurd rfl hne⟩
  | incomplete => exact ⟨fun _ => rfl, fun hne _ => absurd rfl hne⟩
  | invHeader | invChecksum | invUnsolicited | invMismatch | ready =>
    exact ⟨fun hr => absurd hr (by simp [Response.toBytes, counted]), fun _ _ => rfl⟩

/-- Settles O22: INCOMPLETE and FULL are the two outcomes that do not disarm. -/
theorem rxFeedDisarms : Obligations.RxFeedDisarms := by
  unfold Obligations.RxFeedDisarms
  refine ⟨formatTL_of_decodeToken decodeToken_rxFeed, fun chunk s => ?_⟩
  obtain ⟨r, u, hu, e⟩ := feed_outcome Config.rxBufBytes chunk s
  have hresp : u.resp = s.resp := by cases hu <;> rfl
  refine ⟨respond r u, r.toBytes, ((Receives.rxFeed chunk).exec_eq s).trans (congrArg _ e), ?_, hu.armed⟩
  rw [respond_resp, hresp]

/-- Settles O23: each outcome accounts for the buffered bytes and the chunk. -/
theorem rxFeedLosesNoByte : Obligations.RxFeedLosesNoByte := by
  unfold Obligations.RxFeedLosesNoByte
  intro chunk s
  obtain ⟨r, u, hu, e⟩ := feed_outcome Config.rxBufBytes chunk s
  have hexec := ((Receives.rxFeed chunk).exec_eq s).trans (congrArg _ e)
  cases hu with
  | full | incomplete => exact ⟨_, _, hexec, rfl, rfl⟩
  | invHeader => exact ⟨_, _, hexec, rfl, rfl, rfl⟩
  | invChecksum _ _ hb | invUnsolicited _ _ hb | invMismatch _ _ hb => exact ⟨_, _, hexec, rfl, hb.symm⟩
  | ready _ _ _ _ _ _ hb => exact ⟨_, _, hexec, rfl, hb.symm, rfl⟩

/-- Settles O24: no outcome of a feed touches any other field. -/
theorem receivingFrame : Obligations.ReceivingFrame := by
  unfold Obligations.ReceivingFrame
  intro i s t hi ht
  obtain ⟨chunk, hrec⟩ : ∃ chunk, Receives i chunk := by
    rcases hi with ⟨chunk, rfl⟩ | ⟨m, st, c, d, rfl⟩ | ⟨m, st, c, d, rfl⟩
    · exact ⟨_, .rxFeed chunk⟩
    · exact ⟨_, .ack m st c d⟩
    · exact ⟨_, .nak m st c d⟩
  obtain ⟨r, u, hu, e⟩ := feed_outcome Config.rxBufBytes chunk s
  cases (hrec.exec_eq s).symm.trans ht
  rw [e]
  cases hu <;> exact ⟨rfl, rfl, rfl, rfl, rfl, _, rfl⟩

/-! ### One evaluation of a chunk that fits (42_rx_reassembler R142 to R149) -/

theorem exec_rxFeed_of_evaluate {chunk : Bytes} {s : State}
    (hfit : s.rxbuf.length + chunk.length ≤ Config.rxBufBytes) {ev : Event} {rest : Bytes}
    (he : evaluate (s.rxbuf ++ chunk) = (ev, rest)) :
    exec (.rxFeed chunk) s = .next (report ev { s with rxbuf := rest }) := by
  rw [(Receives.rxFeed chunk).exec_eq, feed_of_evaluate _ chunk s hfit ev rest he]

/-- An INCOMPLETE evaluation keeps the chunk and writes nothing else. -/
theorem exec_rxFeed_incomplete {chunk : Bytes} {s : State}
    (hfit : s.rxbuf.length + chunk.length ≤ Config.rxBufBytes)
    (he : evaluate (s.rxbuf ++ chunk) = (.incomplete, s.rxbuf ++ chunk)) :
    exec (.rxFeed chunk) s =
      .next { s with rxbuf := s.rxbuf ++ chunk, resp := s.resp ++ [[0x10]] } :=
  exec_rxFeed_of_evaluate hfit he

/-- RX_FEED sees the buffered bytes and the chunk only as one sequence. -/
theorem exec_rxFeed_append (chunk : Bytes) (s : State)
    (hfit : s.rxbuf.length + chunk.length ≤ Config.rxBufBytes) :
    exec (.rxFeed chunk) s = exec (.rxFeed []) { s with rxbuf := s.rxbuf ++ chunk } := by
  have hempty : exec (.rxFeed []) { s with rxbuf := s.rxbuf ++ chunk } = _ :=
    exec_rxFeed_of_evaluate (by simpa using hfit) rfl
  rw [exec_rxFeed_of_evaluate hfit rfl, hempty, List.append_nil]

/-- Settles O16: FULL is settled by the lengths, and any other RX_FEED by the one sequence. -/
theorem rxFeedCapacityAndAppend : Obligations.RxFeedCapacityAndAppend := by
  unfold Obligations.RxFeedCapacityAndAppend
  refine ⟨fun chunk s hfull => ?_, exec_rxFeed_append⟩
  rw [(Receives.rxFeed chunk).exec_eq, feed_full _ chunk s hfull]
  rfl

/-- Settles O17: fewer than 8 bytes are never looked at. -/
theorem rxFeedBelowMinimumLength : Obligations.RxFeedBelowMinimumLength := by
  unfold Obligations.RxFeedBelowMinimumLength
  exact fun chunk s hfit h8 => exec_rxFeed_incomplete hfit (evaluate_short _ h8)

/-- Settles O18: a bad header is found at 8 bytes, whatever stands after it. -/
theorem rxFeedBadHeader : Obligations.RxFeedBadHeader := by
  unfold Obligations.RxFeedBadHeader
  intro chunk s hfit h8 hbad
  have hh : headerGood (s.rxbuf ++ chunk) = false :=
    Bool.eq_false_iff.2 fun h => hbad ((headerGood_iff _).1 h)
  rw [(Receives.rxFeed chunk).exec_eq, feed_badHeader _ chunk s hfit h8 hh]
  rfl

/-- RXBUF after the report of an event is what the evaluation left. -/
theorem report_rxbuf (ev : Event) (s : State) : (report ev s).rxbuf = s.rxbuf := by
  cases ev with
  | incomplete | invHeader | invChecksum => rfl
  | frame x => rcases deliver_cases x s with ⟨-, -, e⟩ | ⟨-, -, -, e⟩ | ⟨-, e⟩ <;> simp [report, e]

/-- Settles O19: the footer search and the checksum decide among the four evaluations of a good header. -/
theorem rxFeedFooterAndChecksum : Obligations.RxFeedFooterAndChecksum := by
  unfold Obligations.RxFeedFooterAndChecksum
  intro chunk s hfit h8 hgood b
  have hh : headerGood b = true := (headerGood_iff b).2 hgood
  refine ⟨fun hnone => ?noFooter, fun f hleast => ?footer⟩
  case noFooter =>
    exact exec_rxFeed_incomplete hfit (evaluate_noFooter b ((findFooter_eq_none b).2 hnone) hh)
  case footer =>
    have hf : findFooter b = some f := (findFooter_eq_some b f).2 hleast
    refine ⟨fun hshort => ?noChecksum, fun hlong hv => ?bad, fun hlong hv => ?good⟩
    case noChecksum => exact exec_rxFeed_incomplete hfit (evaluate_noChecksum b f hf hshort hh)
    case bad =>
      have he := evaluate_candidate b f hf hlong hh
      rw [hv] at he
      have hlen : (b.take (f + 3)).length = f + 3 := by rw [List.length_take]; omega
      rw [exec_rxFeed_of_evaluate hfit he, ← hlen]
      simp [report, respond, disarm, Response.toBytes, counted, hlen]
    case good =>
      have he := evaluate_candidate b f hf hlong hh
      rw [hv] at he
      exact ⟨he, _, exec_rxFeed_of_evaluate hfit he, report_rxbuf _ _⟩

/-- Settles O20: a candidate that verifies is a response frame, and is delivered. -/
theorem rxFeedCorrelatesAndReports : Obligations.RxFeedCorrelatesAndReports := by
  unfold Obligations.RxFeedCorrelatesAndReports
  intro chunk x rest f s hfit h8 hgood hleast hb hlen hv
  rw [hb] at hgood hleast
  have hh : headerGood (x ++ rest) = true := (headerGood_iff _).2 hgood
  have hf : findFooter (x ++ rest) = some f := (findFooter_eq_some _ f).2 hleast
  obtain ⟨h5, hp, -⟩ := hleast
  have he : evaluate (s.rxbuf ++ chunk) = (.frame x, rest) := by
    rw [hb, evaluate_candidate _ f hf (by rw [List.length_append]; omega) hh, List.take_left' hlen,
      List.drop_left' hlen, hv, if_pos rfl]
  have hexec : exec (.rxFeed chunk) s = .next (deliver x { s with rxbuf := rest }) :=
    exec_rxFeed_of_evaluate hfit he
  obtain ⟨k, m, st, c, d, rfl⟩ : ∃ k m st c d, x = responseFrame k m st c d := by
    refine eq_responseFrame_of_verify (by unfold minFrame; omega) ?_ ?_ hv
    · rwa [headerGood_append x rest (by omega)] at hh
    · rw [hlen]
      exact (pairAt_append_left x rest f (by omega)).1 hp
  have hc4 : (responseFrame k m st c d)[4]? = some c := rfl
  rw [hexec, hc4]
  refine ⟨fun hc ha => ?unsolicited, fun hc ha hne => ?mismatch, fun hw => ?ready⟩
  case unsolicited =>
    rw [deliver_unsolicited _ { s with rxbuf := rest } hc ha]
    rfl
  case mismatch =>
    have hne' : c ≠ s.expect := fun h => hne (congrArg some h)
    rw [deliver_mismatch (responseFrame k m st c d) { s with rxbuf := rest } hc ha hne']
    rfl
  case ready =>
    have hawaits : Awaits { s with rxbuf := rest } c :=
      hw.imp_right fun ⟨ha, hc4⟩ => ⟨ha, (Option.some.inj hc4).symm⟩
    refine ⟨k, m, st, c, d, ck ([ESC, k, m, st, c] ++ d ++ [ESC, ETX]), ?layout, ?report⟩
    case layout => exact List.append_assoc _ [ESC, ETX] _
    case report =>
      rw [deliver_ready _ _ hawaits, readyOf_responseFrame_eq]
      rfl

/-! ### The drain (42_rx_reassembler R152) -/

/-- With CORR_EN 0, the oldest of the buffered frames is reported READY and the bytes after it are kept. -/
theorem feed_ready_first {cap : Nat} {chunk rest d : Bytes} {k m st c : Byte} {s : State}
    (hfit : s.rxbuf.length + chunk.length ≤ cap) (hk : ResponseKind k) (hd : pairFree d = true)
    (hcorr : s.corrEn = false) (hb : s.rxbuf ++ chunk = responseFrame k m st c d ++ rest) :
    feed cap chunk s =
      { s with rxbuf := rest, armed := false, resp := s.resp ++ [readyToken k m st c d] } := by
  have he : evaluate (s.rxbuf ++ chunk) = (.frame (responseFrame k m st c d), rest) := by
    rw [hb, evaluate_responseFrame_append k m st c d rest hk hd]
  have hready := deliver_ready (responseFrame k m st c d) { s with rxbuf := rest } (.inl hcorr)
  rw [feed_of_evaluate cap chunk s hfit _ _ he, report, hready, readyOf_responseFrame_eq]
  rfl

/-- Settles O25: the first feed finds the first frame, and the empty feed finds what it kept. -/
theorem oneFramePerFeedAndDrain : Obligations.OneFramePerFeedAndDrain := by
  unfold Obligations.OneFramePerFeedAndDrain
  refine ⟨fun chunk => (Receives.rxFeed chunk).exec_eq, ?_⟩
  intro cap k1 m1 s1 c1 k2 m2 s2 c2 d1 d2 chunk s hk1 hk2 hd1 hd2 hcorr hfit hb
  have hlen : s.rxbuf.length + chunk.length = d1.length + 8 + (d2.length + 8) := by
    simpa using congrArg List.length hb
  have hfirst := feed_ready_first hfit hk1 hd1 hcorr hb
  have hsecond : feed cap [] (feed cap chunk s) = _ :=
    feed_ready_first (rest := []) (by rw [hfirst]; simp; omega) hk2 hd2 (by rw [hfirst]; exact hcorr)
      (by rw [hfirst])
  refine ⟨hfirst, ?_⟩
  rw [hsecond, hfirst]
  simp

/-! ### Chunks of a valid frame (42_rx_reassembler R155) -/

/-- The chunks before the last one are all INCOMPLETE, and leave the part of the frame they make up. -/
theorem execAll_rxFeed_parts {k m st c : Byte} {d last : Bytes} (hk : ResponseKind k)
    (hd : pairFree d = true) (hfit : (responseFrame k m st c d).length ≤ Config.rxBufBytes)
    (hlast : last ≠ []) (chunks : List Bytes) (s : State)
    (hb : s.rxbuf ++ (chunks ++ [last]).flatten = responseFrame k m st c d) :
    execAll ((chunks ++ [last]).map .rxFeed) s = exec (.rxFeed []) { s with
      rxbuf := responseFrame k m st c d, resp := s.resp ++ List.replicate chunks.length [0x10] } := by
  induction chunks generalizing s with
  | nil =>
    have hall : s.rxbuf ++ last = responseFrame k m st c d := by simpa using hb
    have hexec := exec_rxFeed_append last s (by rwa [← List.length_append, hall])
    obtain ⟨t, ht, -⟩ := exec_effect (.rxFeed last) s
    simp only [List.nil_append, List.map_cons, List.map_nil, execAll, ht]
    rw [← ht, hexec, hall]
    simp
  | cons chunk chunks ih =>
    have hb' : s.rxbuf ++ chunk ++ (chunks ++ [last]).flatten = responseFrame k m st c d := by
      simpa using hb
    have hpart : (s.rxbuf ++ chunk).length ≤ (responseFrame k m st c d).length := by
      rw [← hb', List.length_append (bs := (chunks ++ [last]).flatten)]
      exact Nat.le_add_right _ _
    have he := evaluate_part_of_responseFrame hk hd (by simp [hlast]) hb'
    have hexec := exec_rxFeed_incomplete (by rw [← List.length_append]; omega) he
    rw [List.cons_append, List.map_cons, execAll_cons hexec, ih _ hb']
    simp [List.replicate_succ]

/-- What a verified frame is answered does not depend on what has been answered before. -/
theorem deliver_of_other_resp (x : Bytes) (s : State) :
    ∃ r : Response, ∀ q, deliver x { s with resp := q } =
      { disarm s with resp := q ++ [r.toBytes] } := by
  rcases deliver_cases x s with ⟨hc, ha, -⟩ | ⟨hc, ha, hne, -⟩ | ⟨hw, -⟩
  · refine ⟨.invUnsolicited x, fun q => ?_⟩
    rw [deliver_unsolicited x { s with resp := q } hc ha, disarm_of_not_armed s ha]
    rfl
  · exact ⟨.invMismatch x, fun q => deliver_mismatch x { s with resp := q } hc ha hne⟩
  · have hawaits : Awaits s (byteAt x 4) := hw.imp_right (And.imp_right Eq.symm)
    exact ⟨readyOf x, fun q => deliver_ready x { s with resp := q } hawaits⟩

/-- An empty RX_FEED delivers a response frame that is all of RXBUF. -/
theorem exec_rxFeed_nil_of_responseFrame {k m st c : Byte} {d : Bytes} {s : State} (hk : ResponseKind k)
    (hd : pairFree d = true) (hfit : (responseFrame k m st c d).length ≤ Config.rxBufBytes)
    (hs : s.rxbuf = responseFrame k m st c d) :
    exec (.rxFeed []) s = .next (deliver (responseFrame k m st c d) { s with rxbuf := [] }) := by
  have he : evaluate (s.rxbuf ++ []) = (.frame (responseFrame k m st c d), []) := by
    rw [List.append_nil, hs, evaluate_responseFrame k m st c d hk hd]
  exact exec_rxFeed_of_evaluate (by simpa [hs] using hfit) he

/-- Settles O26: both ways the whole frame is delivered from the same state but for the responses. -/
theorem chunkingKeepsAValidFrame : Obligations.ChunkingKeepsAValidFrame := by
  unfold Obligations.ChunkingKeepsAValidFrame
  intro k m st c d chunks last s hk hd hs hfit hlast hb
  obtain ⟨r, hr⟩ := deliver_of_other_resp (responseFrame k m st c d) { s with rxbuf := [] }
  have hwhole : exec (.rxFeed (responseFrame k m st c d)) s = .next _ :=
    (exec_rxFeed_append _ s (by simpa [hs] using hfit)).trans
      (exec_rxFeed_nil_of_responseFrame hk hd hfit (by rw [hs, List.nil_append]))
  have hchunks : execAll ((chunks ++ [last]).map .rxFeed) s = .next _ :=
    (execAll_rxFeed_parts hk hd hfit hlast chunks s (by rwa [hs])).trans
      (exec_rxFeed_nil_of_responseFrame hk hd hfit rfl)
  refine ⟨_, r.toBytes, hwhole.trans (congrArg _ (hr _)), rfl, rfl, hchunks.trans (congrArg _ (hr _))⟩

/-! ### Chunks of a bad header (42_rx_reassembler R156) -/

theorem headerGood_replicate (n : Nat) (b : Byte) (h : b ≠ ESC) :
    headerGood (List.replicate n b) = false := by
  refine Bool.eq_false_iff.2 fun hgood => h ?_
  obtain ⟨hesc, -⟩ := (headerGood_iff _).1 hgood
  exact (List.eq_of_mem_replicate (List.mem_of_getElem? hesc)).symm

/-- Bytes fed one by one are kept while there are fewer than 8. -/
theorem foldl_feed_kept (cap : Nat) (b : Byte) (k n : Nat) (s : State) (hcap : 8 ≤ cap) (h8 : n + k < 8)
    (hs : s.rxbuf = List.replicate n b) :
    (List.replicate k [b]).foldl (fun t chunk => feed cap chunk t) s = { s with
      rxbuf := List.replicate (n + k) b, resp := s.resp ++ List.replicate k [0x10] } := by
  induction k generalizing n s with
  | zero => simp [← hs]
  | succ k ih =>
    have hone : s.rxbuf ++ [b] = List.replicate (n + 1) b := by rw [hs, List.replicate_succ']
    have hkeep : feed cap [b] s = respond .incomplete { s with rxbuf := List.replicate (n + 1) b } := by
      refine feed_of_evaluate cap [b] s (by simp [hs]; omega) .incomplete _ ?_
      rw [hone]
      exact evaluate_short _ (by simp [minFrame]; omega)
    rw [List.replicate_succ, List.foldl_cons, hkeep, ih (n + 1) _ (by omega) rfl]
    simp [respond, Response.toBytes, List.replicate_succ, Nat.add_assoc, Nat.add_comm 1]

/-- The INV_HEADER of `n` equal bytes. -/
theorem feed_badHeader_replicate (cap : Nat) (b : Byte) (j n : Nat) (s : State) (hb : b ≠ ESC)
    (h8 : 8 ≤ j + n) (hcap : j + n ≤ cap) (hs : s.rxbuf = List.replicate j b) :
    feed cap (List.replicate n b) s = { s with
      rxbuf := [], armed := false,
      resp := s.resp ++ [0x20 :: be16 (j + n) ++ List.replicate (j + n) b] } := by
  have hall : s.rxbuf ++ List.replicate n b = List.replicate (j + n) b := by
    rw [hs, List.replicate_append_replicate]
  rw [feed_badHeader cap _ s (by simpa [hs] using hcap) (by simpa [hs] using h8)
    (by rw [hall]; exact headerGood_replicate _ b hb), hall]
  simp [respond, disarm, Response.toBytes, counted]

/-- Eight bytes fed one by one: the last of them completes a bad header. -/
theorem foldl_feed_eight (cap : Nat) (b : Byte) (s : State) (hb : b ≠ ESC) (hcap : 8 ≤ cap)
    (hs : s.rxbuf = []) :
    (List.replicate 8 [b]).foldl (fun t chunk => feed cap chunk t) s = { s with
      rxbuf := [], armed := false,
      resp := s.resp ++ (List.replicate 7 [0x10] ++ [0x20 :: be16 8 ++ List.replicate 8 b]) } := by
  have hlast : ∀ t : State, t.rxbuf = List.replicate 7 b → feed cap [b] t = _ :=
    fun t => feed_badHeader_replicate cap b 7 1 t hb (by decide) hcap
  rw [List.replicate_succ' (n := 7), List.foldl_concat, foldl_feed_kept cap b 7 0 s hcap (by decide) hs,
    hlast _ rfl]
  simp

/-- Settles O27: twenty bytes one by one are two runs of eight and four bytes that are kept. -/
theorem chunkingChangesABadHeader : Obligations.ChunkingChangesABadHeader := by
  unfold Obligations.ChunkingChangesABadHeader
  refine ⟨fun chunk => (Receives.rxFeed chunk).exec_eq, ?_⟩
  intro cap b s hb hs hcap inv
  refine ⟨?whole, ?single⟩
  case whole =>
    rw [feed_badHeader_replicate cap b 0 20 s hb (by decide) hcap hs]
    simp [hs, inv]
  case single =>
    have h8 : 8 ≤ cap := by omega
    have hsplit : List.replicate 20 [b] =
        List.replicate 8 [b] ++ List.replicate 8 [b] ++ List.replicate 4 [b] := rfl
    rw [hsplit, List.foldl_append, List.foldl_append, foldl_feed_eight cap b s hb h8 hs,
      foldl_feed_eight cap b _ hb h8 rfl, foldl_feed_kept cap b 4 0 _ h8 (by decide) rfl]
    simp [inv, List.append_assoc]

/-! ### The classes of RXBUF (42_rx_reassembler R159) -/

/-- An evaluation is INCOMPLETE in just one way: it keeps the buffer. -/
theorem evaluate_eq_incomplete_iff (b : Bytes) :
    evaluate b = (.incomplete, b) ↔ (evaluate b).1 = .incomplete := by
  refine ⟨congrArg Prod.fst, fun h => ?_⟩
  rcases evaluate_cases b with e | ⟨-, -, e⟩ | ⟨x, rest, -, -, -, -, ⟨-, e⟩ | ⟨-, e⟩⟩
  · exact e
  · rw [e] at h; cases h
  · rw [e] at h; cases h
  · rw [e] at h; cases h

theorem rxClass_eq_short_iff (b : Bytes) : rxClass b = .short ↔ b.length < 8 := by
  unfold rxClass
  split_ifs with h
  · exact iff_of_true rfl h
  · refine iff_of_false ?_ h
    split <;> simp

theorem rxClass_ne_pending_iff (b : Bytes) : rxClass b ≠ .pending ↔ (evaluate b).1 = .incomplete := by
  unfold rxClass
  split_ifs with h
  · simp [evaluate_short b h]
  · split <;> simp_all

/-- Only an INCOMPLETE event is reported INCOMPLETE. -/
theorem report_incomplete_iff (ev : Event) (s : State) :
    (report ev s).resp = s.resp ++ [[0x10]] ↔ ev = .incomplete := by
  cases ev with
  | incomplete => exact iff_of_true rfl rfl
  | invHeader | invChecksum => simp [report, Response.toBytes, counted]
  | frame x =>
    rcases deliver_cases x s with ⟨-, -, e⟩ | ⟨-, -, -, e⟩ | ⟨-, e⟩ <;>
      simp [report, e, Response.toBytes, counted, readyOf]

/-- Settles O32: a class is what one evaluation says, which an empty RX_FEED reports. -/
theorem rxbufClasses : Obligations.RxbufClasses := by
  unfold Obligations.RxbufClasses
  intro s hcap
  refine ⟨rxClass_eq_short_iff _, ?_, fun i hi => ?_⟩
  · rw [rxClass_ne_pending_iff]
    have hexec : exec (.rxFeed []) s =
        .next (report (evaluate s.rxbuf).1 { s with rxbuf := (evaluate s.rxbuf).2 }) :=
      exec_rxFeed_of_evaluate (chunk := []) hcap (by rw [List.append_nil])
    constructor
    · intro h
      rw [hexec, (evaluate_eq_incomplete_iff _).2 h]
      rfl
    · intro h
      rw [hexec] at h
      injection h with h
      exact (report_incomplete_iff _ _).1 (congrArg State.resp h)
  · rcases hi with rfl | rfl <;> exact ⟨_, rfl, rfl, rfl⟩

/-! ### RX_FLUSH and RX_DISARM (42_rx_reassembler R153, R154) -/

/-- Format T0, for every opcode whose tokens `decodeT0` reads. -/
theorem formatT0_of_decodeToken {op : Byte} {i : Instr} (h : ∀ r, decodeToken (op :: r) = decodeT0 i r) :
    FormatT0 op i where
  encoding := h []
  longer b r := answersIllegal_of_error (h (b :: r))

/-- Settles O33: the token is format T0's, and the effect is one write of RXBUF. -/
theorem rxFlushCommand : Obligations.RxFlushCommand := by
  unfold Obligations.RxFlushCommand
  exact ⟨formatT0_of_decodeToken decodeToken_rxFlush, fun s => rfl⟩

/-- Settles O34: the token is format T0's, and the effect is one write of ARMED. -/
theorem rxDisarmCommand : Obligations.RxDisarmCommand := by
  unfold Obligations.RxDisarmCommand
  exact ⟨formatT0_of_decodeToken decodeToken_rxDisarm, fun s => rfl⟩

end Sys2Proof.Machine
end

section
/-! PROOFS of 43_control: RESET and RST are one write of the elements, of which RESET alone returns a
response; REG_READ and REG_WRITE answer what the register access gives, or ILLEGAL when it gives none. -/

namespace Sys2Proof.Machine

/-! ### RESET and RST (43_control R170, R171) -/

theorem exec_reset (s : State) : exec .reset s = .next (respond .ok (resetElements s)) := rfl

theorem step_rst (s : State) (rest : List Input) :
    step { s with input := .rst :: rest } = .next (resetElements { s with input := rest }) :=
  step_cons _ .rst rest rfl

/-- Settles O2: the token is format T0's, and the effect is the write of the elements and one OK. -/
theorem resetCommand : Obligations.ResetCommand := by
  unfold Obligations.ResetCommand
  exact ⟨formatT0_of_decodeToken decodeToken_reset, exec_reset⟩

/-- Settles O3: both leave `resetElements`, to which RESET adds its response. -/
theorem resetAndRstAgree : Obligations.ResetAndRstAgree := by
  unfold Obligations.ResetAndRstAgree
  exact fun s rest => ⟨_, _, exec_reset _, step_rst s rest, rfl, rfl, rfl⟩

/-! ### REG_READ (43_control R174, R175) -/

theorem exec_regRead_of_some {a v : Byte} {s : State} (h : readReg a s = some v) :
    exec (.regRead a) s = .next (respond (.okByte v) s) := by
  simp only [exec, execRegRead, h]

theorem exec_regRead_of_none {a : Byte} {s : State} (h : readReg a s = none) :
    exec (.regRead a) s = .next (turnAway .illegal s) := by
  simp only [exec, execRegRead, h]

theorem readReg_reserved {a : Byte} (s : State) (h : 0x05 ≤ a.toNat) : readReg a s = none := by
  rcases readReg_cases a s with ⟨rfl, -⟩ | ⟨rfl, -⟩ | ⟨rfl, -⟩ | ⟨rfl, -⟩ | ⟨rfl, -⟩ | ⟨-, e⟩
  case inr.inr.inr.inr.inr => exact e
  all_goals exact absurd h (by decide)

theorem statByte_eq (s : State) :
    statByte s = (if s.armed then 0x01 else 0x00) ||| (if s.rxbuf = [] then 0x00 else 0x02) := by
  cases h : s.rxbuf <;> simp [statByte, rxne, bit8, h]

/-- Settles O35: each of the five addresses reads its register, and every other address reads none. -/
theorem regReadCommand : Obligations.RegReadCommand := by
  unfold Obligations.RegReadCommand
  refine ⟨fun a => decodeToken_regRead [a], answersIllegal_of_error (decodeToken_regRead []),
    fun a b r => answersIllegal_of_error (decodeToken_regRead (a :: b :: r)), fun s => ?_⟩
  refine ⟨exec_regRead_of_some (readReg_ctrl s), ?stat, exec_regRead_of_some (readReg_expect s),
    exec_regRead_of_some (readReg_rxlvlHi s), exec_regRead_of_some (readReg_rxlvlLo s),
    fun a ha => exec_regRead_of_none (readReg_reserved s ha)⟩
  case stat =>
    rw [← statByte_eq]
    exact exec_regRead_of_some (readReg_stat s)

/-! ### REG_WRITE (43_control R176, R177) -/

theorem exec_regWrite_of_some {a v : Byte} {s t : State} (h : writeReg a v s = some t) :
    exec (.regWrite a v) s = .next (respond .ok t) := by
  simp only [exec, execRegWrite, h]

theorem exec_regWrite_of_none {a v : Byte} {s : State} (h : writeReg a v s = none) :
    exec (.regWrite a v) s = .next (turnAway .illegal s) := by
  simp only [exec, execRegWrite, h]

theorem writeReg_ctrl (v : Byte) (s : State) : writeReg 0x00 v s = some (writeCtrl v s) := rfl

theorem writeReg_of_ne {a : Byte} (v : Byte) (s : State) (h : a ≠ 0x00) : writeReg a v s = none :=
  if_neg h

theorem writeCtrl_eq (v : Byte) (s : State) :
    writeCtrl v s = { s with
      corrEn := v.getLsbD 0
      armed := if v.getLsbD 0 = false then false else s.armed } := by
  rw [writeCtrl]
  cases v.getLsbD 0 <;> simp

/-- Settles O36: CTRL is the one writable register, and its write is `writeCtrl`. -/
theorem regWriteCommand : Obligations.RegWriteCommand := by
  unfold Obligations.RegWriteCommand
  refine ⟨fun a v => decodeToken_regWrite [a, v], answersIllegal_of_error (decodeToken_regWrite []),
    fun a => answersIllegal_of_error (decodeToken_regWrite [a]),
    fun a v b r => answersIllegal_of_error (decodeToken_regWrite (a :: v :: b :: r)),
    fun s => ⟨fun v => ?ctrl, fun a v ha => exec_regWrite_of_none (writeReg_of_ne v s ha)⟩⟩
  case ctrl =>
    rw [exec_regWrite_of_some (writeReg_ctrl v s), writeCtrl_eq]
    rfl

end Sys2Proof.Machine
end

section
/-! PROOFS of 60_exceptions: no instruction's meaning stops (`exec_next`), so a step stops only on an
input that is never performed: a stalled transport, or bytes that decode to no wire frame. -/

namespace Sys2Proof.Machine

theorem performFrame_next {f : Bytes} (h : (decode .wire f).toOption.isSome = true) (s : State) :
    ∃ t, performFrame f s = .next t ∧ t.input = s.input := by
  cases hdec : decode .wire f with
  | ok i =>
    rw [performFrame_of_decode hdec]
    exact exec_next i s
  | error e =>
    rw [hdec] at h
    cases h

/-- A cut TX_BUILD answers at once; every other token is performed to its end, before RST or after it. -/
theorem performCut_next (b : Bytes) (s : State) : ∃ t, performCut b s = .next t ∧ t.input = s.input := by
  rcases performCut_cases b s with ⟨frame, k, -, -, hcut⟩ | ⟨-, hafter | hbefore⟩
  · exact ⟨_, hcut, rfl⟩
  · rw [hafter]
    exact performToken_next b (resetElements (drawn s))
  · obtain ⟨u, hu, hinput⟩ := performToken_next b (drawn s)
    rw [hbefore, hu]
    exact ⟨resetElements u, rfl, hinput⟩

theorem takeInput_next {i : Input} (h : i.fair = true) (s : State) :
    ∃ t, takeInput i s = .next t ∧ t.input = s.input := by
  cases i with
  | token b => exact performToken_next b s
  | frame f => exact performFrame_next h s
  | rst => exact ⟨resetElements s, rfl, rfl⟩
  | rstDuring b => exact performCut_next b s
  | stalled b => cases h

/-- Settles O48: a step without input waits, and every fair kind of input is taken to a next state. -/
theorem fairInputsNeverStop : Obligations.FairInputsNeverStop := by
  unfold Obligations.FairInputsNeverStop
  refine ⟨step_idle, fun s i rest hin hfair => ?_⟩
  rw [step_cons s i rest hin]
  exact takeInput_next hfair { s with input := rest }

end Sys2Proof.Machine
end

section
/-! PROOFS of 70_reset_and_hazards: a token emits or it does not, and that alone settles what RST during
it and a stalled transport do to it. The hazards of the reassembler are one evaluation each: a footer pair
in the data, a buffer that is full, and a response that comes after its request was given up. -/

namespace Sys2Proof.Machine

/-! ### Tokens that emit (70_reset R230, R231, R250) -/

theorem outstanding_iff (s : State) : outstanding s = true ↔ s.corrEn = true ∧ s.armed = true := by
  rw [outstanding, Bool.and_eq_true]

theorem emission_of_txBuild {t p : Bytes} {m c : Byte} {s : State}
    (hdec : decode .cmd t = .ok (.txBuild m c p)) (hfree : ¬ (s.corrEn = true ∧ s.armed = true)) :
    emission t s = some (requestFrame m c p) := by
  rcases emission_cases t s with ⟨m', c', p', hdec', -, he⟩ | ⟨hbusy, -⟩
  · cases hdec.symm.trans hdec'
    exact he
  · exact absurd ((outstanding_iff s).1 (hbusy m c p hdec)) hfree

theorem emission_eq_none {t : Bytes} {s : State}
    (h : ∀ m c p, decode .cmd t = .ok (.txBuild m c p) → s.corrEn = true ∧ s.armed = true) :
    emission t s = none := by
  rcases emission_cases t s with ⟨m, c, p, hdec, hfree, -⟩ | ⟨-, he⟩
  · exact absurd ((outstanding_iff s).2 (h m c p hdec)) (Bool.eq_false_iff.1 hfree)
  · exact he

/-! ### RST during a token (70_reset R230, R231) -/

theorem performCut_of_emission {t frame : Bytes} {s : State} (he : emission t s = some frame)
    (hne : frame ≠ []) : ∃ k, k < frame.length ∧
      performCut t s = .next (resetElements (emit (frame.take k) (drawn s))) := by
  rcases performCut_cases t s with ⟨frame', k, he', hk, hcut⟩ | ⟨hnone, -⟩
  · cases he.symm.trans he'
    exact ⟨k, hk hne, hcut⟩
  · cases he.symm.trans hnone

theorem performCut_of_no_emission {t : Bytes} {s : State} (he : emission t s = none) :
    performCut t s = performToken t (resetElements (drawn s)) ∨
    ∃ u, performToken t (drawn s) = .next u ∧ performCut t s = .next (resetElements u) := by
  rcases performCut_cases t s with ⟨frame, k, he', -, -⟩ | ⟨-, hafter | hbefore⟩
  · cases he.symm.trans he'
  · exact .inl hafter
  · obtain ⟨u, hu, -⟩ := performToken_next t (drawn s)
    exact .inr ⟨u, hu, by rw [hbefore, hu]; rfl⟩

/-- RST during a TX_BUILD that emits leaves a proper part of its frame on TXOUT, and the reset values. -/
theorem step_rstDuring_txBuild {t p : Bytes} {m c : Byte} {s : State} {rest : List Input}
    (hin : s.input = .rstDuring t :: rest) (hdec : decode .cmd t = .ok (.txBuild m c p))
    (hfree : ¬ (s.corrEn = true ∧ s.armed = true)) :
    ∃ k, k < (requestFrame m c p).length ∧
      step s = .next { s with
        rxbuf := [], armed := false, expect := 0x00, corrEn := true, input := rest,
        txout := s.txout ++ (requestFrame m c p).take k, draws := s.draws + 1 } := by
  have hne : requestFrame m c p ≠ [] := List.cons_ne_nil _ _
  obtain ⟨k, hk, hcut⟩ := performCut_of_emission (s := { s with input := rest })
    (emission_of_txBuild hdec hfree) hne
  exact ⟨k, hk, (step_cons s _ rest hin).trans hcut⟩

/-- Settles O4: RST alone is one write of the elements; RST during a token cuts it when it emits, and
comes before or after it when it does not. -/
theorem rstTakesEffectBetweenCommands : Obligations.RstTakesEffectBetweenCommands := by
  unfold Obligations.RstTakesEffectBetweenCommands
  refine ⟨fun s rest hin => step_cons s .rst rest hin, fun s t rest hin => ?during⟩
  case during =>
    refine ⟨fun m c p hdec hfree => ?emits, fun hbusy => ?other⟩
    case emits =>
      obtain ⟨k, -, hstep⟩ := step_rstDuring_txBuild hin hdec hfree
      exact ⟨_, hstep, rfl, rfl, rfl, rfl, rfl⟩
    case other =>
      rw [step_cons s _ rest hin]
      exact performCut_of_no_emission (emission_eq_none hbusy)

/-- Settles O5: the token is the encoding of its TX_BUILD. -/
theorem rstDuringTxBuildCutsTheFrame : Obligations.RstDuringTxBuildCutsTheFrame := by
  unfold Obligations.RstDuringTxBuildCutsTheFrame
  intro s m c p rest hlen hfree hin
  have hdec := decode_cmd_encode (i := .txBuild m c p) rfl (decide_eq_true hlen)
  exact step_rstDuring_txBuild hin hdec hfree

/-! ### A stalled transport (70_reset R250) -/

theorem performStalled_of_emission {t frame : Bytes} {s : State} (he : emission t s = some frame) :
    performStalled t s = .fault .transportStall := by
  rcases performStalled_cases t s with ⟨-, hstall⟩ | ⟨hnone, -⟩
  · exact hstall
  · cases he.symm.trans hnone

theorem performStalled_of_no_emission {t : Bytes} {s : State} (he : emission t s = none) :
    performStalled t s = performToken t s := by
  rcases performStalled_cases t s with ⟨hsome, -⟩ | ⟨-, hperform⟩
  · rw [he] at hsome
    cases hsome
  · exact hperform

/-- Settles O49: a token needs the transport exactly when it emits. -/
theorem stalledTransportHangsTxBuild : Obligations.StalledTransportHangsTxBuild := by
  unfold Obligations.StalledTransportHangsTxBuild
  intro s t rest hin
  rw [step_cons s _ rest hin, step_cons { s with input := .token t :: rest } _ rest rfl]
  refine ⟨fun m c p hdec hfree => ?emits, fun hbusy => ?other⟩
  case emits => exact performStalled_of_emission (emission_of_txBuild hdec hfree)
  case other => exact performStalled_of_no_emission (emission_eq_none hbusy)

/-! ### A footer pair in the data (70_reset R240) -/

/-- A response's fields and data closed by the footer: a response frame without its checksum byte. -/
def footed (k m st c : Byte) (d : Bytes) : Bytes := [ESC, k, m, st, c] ++ d ++ [ESC, ETX]

theorem footed_length (k m st c : Byte) (d : Bytes) : (footed k m st c d).length = d.length + 7 := by
  simp [footed]

theorem footed_concat_ck (k m st c : Byte) (d : Bytes) :
    footed k m st c d ++ [ck (footed k m st c d)] = responseFrame k m st c d := rfl

theorem findFooter_footed (k m st c : Byte) (d rest : Bytes) (hd : pairFree d = true) :
    findFooter (footed k m st c d ++ rest) = some (d.length + 5) := by
  have hdrop : (footed k m st c d ++ rest).drop footerFrom = d ++ ESC :: ETX :: rest := by
    simp [footed, footerFrom]
  rw [findFooter, hdrop, findPair_footer d rest hd]
  rfl

/-- The byte after the first footer pair is taken for the checksum, and decides whether the bytes up to
it are a frame. -/
theorem evaluate_footed (k m st c b : Byte) (d rest : Bytes) (hk : ResponseKind k)
    (hd : pairFree d = true) :
    evaluate (footed k m st c d ++ b :: rest) =
      (if b = ck (footed k m st c d) then .frame (responseFrame k m st c d)
        else .invChecksum (footed k m st c d ++ [b]), rest) := by
  have hlen := footed_length k m st c d
  have hlen1 : (footed k m st c d ++ [b]).length = d.length + 8 := by simp [hlen]
  have hsplit : footed k m st c d ++ b :: rest = footed k m st c d ++ [b] ++ rest := by simp
  have hgood : headerGood (footed k m st c d ++ b :: rest) = true := by
    rcases hk with rfl | rfl <;> rfl
  rw [evaluate_candidate _ _ (findFooter_footed k m st c d _ hd)
    (by rw [List.length_append, List.length_cons]; omega) hgood, hsplit,
    List.take_left' hlen1, List.drop_left' hlen1]
  by_cases hb : b = ck (footed k m st c d)
  · rw [if_pos ((verify_concat_iff _ b).2 hb.symm), if_pos hb, hb, footed_concat_ck]
  · rw [if_neg fun h => hb ((verify_concat_iff _ b).1 h).symm, if_neg hb]

/-- On an empty RXBUF and with CORR_EN 0, a feed with a footer pair reports what stands before the pair. -/
theorem feed_footed (cap : Nat) (k m st c b : Byte) (d rest : Bytes) (s : State) (hk : ResponseKind k)
    (hd : pairFree d = true) (hcorr : s.corrEn = false) (hs : s.rxbuf = [])
    (hfit : (footed k m st c d ++ b :: rest).length ≤ cap) :
    feed cap (footed k m st c d ++ b :: rest) s = { s with
      rxbuf := rest, armed := false,
      resp := s.resp ++ [if b = ck (footed k m st c d) then readyToken k m st c d
        else 0x21 :: be16 (d.length + 8) ++ (footed k m st c d ++ [b])] } := by
  have he := evaluate_footed k m st c b d rest hk hd
  rw [feed_of_evaluate cap _ s (by simpa [hs] using hfit) _ rest (by rw [hs]; exact he)]
  by_cases hb : b = ck (footed k m st c d)
  · have hready := deliver_ready (responseFrame k m st c d) { s with rxbuf := rest } (.inl hcorr)
    rw [if_pos hb, if_pos hb, report, hready, readyOf_responseFrame_eq]
    rfl
  · have hlen1 : (footed k m st c d ++ [b]).length = d.length + 8 := by simp [footed_length]
    rw [if_neg hb, if_neg hb, ← hlen1]
    rfl

/-- A response frame with a footer pair in its data has a byte after that pair, if only its own footer's. -/
theorem responseFrame_of_pair (k m st c : Byte) (d1 d2 : Bytes) :
    ∃ b rest, responseFrame k m st c (d1 ++ [0x1B, 0x03] ++ d2) = footed k m st c d1 ++ b :: rest := by
  have htail : ∀ x : Byte, ∃ b rest, d2 ++ [ESC, ETX, x] = b :: rest :=
    fun x => List.exists_cons_of_ne_nil (by simp)
  obtain ⟨b, rest, hb⟩ := htail (ck ([ESC, k, m, st, c] ++ (d1 ++ [ESC, ETX] ++ d2) ++ [ESC, ETX]))
  refine ⟨b, rest, ?_⟩
  rw [← hb, footed, responseFrame, sealed]
  simp [ESC, ETX]

/-- Settles O29: the frame is cut where its first footer pair ends, one byte after it. -/
theorem footerPairInDataCutsTheFrame : Obligations.FooterPairInDataCutsTheFrame := by
  unfold Obligations.FooterPairInDataCutsTheFrame
  refine ⟨fun chunk => (Receives.rxFeed chunk).exec_eq, ?_⟩
  intro cap k m st c d1 d2 s hk hd hcorr hs f hfit
  obtain ⟨b, rest, hf⟩ : ∃ b rest, f = footed k m st c d1 ++ b :: rest :=
    responseFrame_of_pair k m st c d1 d2
  have hlen := footed_length k m st c d1
  have hlen1 : (footed k m st c d1 ++ [b]).length = d1.length + 8 := by simp [hlen]
  have hget : f[d1.length + 7]? = some b := by simp [hf, ← hlen]
  have htake : f.take (d1.length + 7) = footed k m st c d1 := by rw [hf, List.take_left' hlen]
  have hsplit : f = footed k m st c d1 ++ [b] ++ rest := by simp [hf]
  have htake1 : f.take (d1.length + 8) = footed k m st c d1 ++ [b] := by
    rw [hsplit, List.take_left' hlen1]
  have hdrop : f.drop (d1.length + 8) = rest := by rw [hsplit, List.drop_left' hlen1]
  have hfeed := feed_footed cap k m st c b d1 rest s hk hd hcorr hs (hf ▸ hfit)
  rw [← hf] at hfeed
  simp only [hfeed, hget, htake, htake1, hdrop, Option.some.injEq]

/-! ### A full buffer (70_reset R243) -/

/-- Settles O30: a non-empty chunk does not fit, and the empty one finds no footer. -/
theorem fullBufferStaysFull : Obligations.FullBufferStaysFull := by
  unfold Obligations.FullBufferStaysFull
  intro chunk s hcap hgood hnone
  by_cases hc : chunk = []
  · have he : evaluate (s.rxbuf ++ []) = (.incomplete, s.rxbuf ++ []) := by
      rw [List.append_nil]
      exact evaluate_noFooter _ ((findFooter_eq_none _).2 hnone) ((headerGood_iff _).2 hgood)
    rw [if_pos hc, hc, exec_rxFeed_incomplete (by simp [hcap]) he, List.append_nil]
  · have hpos : 0 < chunk.length := List.length_pos_iff.2 hc
    rw [if_neg hc, (Receives.rxFeed chunk).exec_eq, feed_full _ chunk s (by omega)]
    rfl

/-! ### A late response (70_reset R244) -/

theorem exec_rxDisarm (s : State) : exec .rxDisarm s = .next (respond .ok (disarm s)) := rfl

theorem execAll_singleton (i : Instr) (s : State) : execAll [i] s = exec i s := by
  obtain ⟨t, ht, -⟩ := exec_next i s
  rw [execAll_cons ht, ht]
  rfl

/-- With CORR_EN 1, ARMED and EXPECT settle the report of a verified frame, and ARMED is 0 after it. -/
theorem deliver_of_corrEn (x : Bytes) (s : State) (hc : s.corrEn = true) :
    deliver x s = respond
      (if s.armed = false then .invUnsolicited x
        else if byteAt x 4 = s.expect then readyOf x else .invMismatch x) (disarm s) := by
  cases ha : s.armed with
  | false => rw [deliver_unsolicited x s hc ha, if_pos rfl, disarm_of_not_armed s ha]
  | true =>
    rw [if_neg (by decide)]
    by_cases he : byteAt x 4 = s.expect
    · rw [if_pos he, deliver_ready x s (.inr ⟨ha, he.symm⟩)]
    · rw [if_neg he, deliver_mismatch x s hc ha he]

/-- With CORR_EN 1 and RXBUF empty, what RX_FEED of a whole response frame answers. -/
theorem exec_rxFeed_responseFrame {k m st c : Byte} {d : Bytes} (hk : ResponseKind k)
    (hd : pairFree d = true) (hfit : (responseFrame k m st c d).length ≤ Config.rxBufBytes)
    (s : State) (hs : s.rxbuf = []) (hc : s.corrEn = true) :
    exec (.rxFeed (responseFrame k m st c d)) s = .next (respond
      (if s.armed = false then .invUnsolicited (responseFrame k m st c d)
        else if c = s.expect then .ready k m st c (readyFlags st) d
        else .invMismatch (responseFrame k m st c d)) (disarm s)) := by
  rw [(Receives.rxFeed _).exec_eq,
    feed_responseFrame _ k m st c d s hk hd hs (by rwa [responseFrame_length] at hfit),
    deliver_of_corrEn _ s hc, responseFrame_byte4, readyOf_responseFrame_eq]

/-- Settles O31: RX_DISARM leaves nothing outstanding, so the frame is unsolicited; a TX_BUILD after it is
sent and sets EXPECT, with which alone the frame's command id is compared. -/
theorem lateResponseAfterDisarm : Obligations.LateResponseAfterDisarm := by
  unfold Obligations.LateResponseAfterDisarm
  intro k m st c m' c' d p s hk hd hcorr _ _ hs f hfit
  have hlate := exec_rxFeed_responseFrame hk hd hfit
  refine ⟨?before, ?after⟩
  case before =>
    rw [execAll_cons (exec_rxDisarm s), execAll_singleton]
    refine (hlate (respond .ok (disarm s)) hs hcorr).trans ?_
    simp [respond, disarm, Response.toBytes, counted, f]
  case after =>
    have hsend := (Sends.txBuild m' c' p).exec_eq (respond .ok (disarm s))
    rw [buildAndSend_sends m' c' p (respond .ok (disarm s)) rfl,
      arm_on c' (emit _ (respond .ok (disarm s))) hcorr] at hsend
    rw [execAll_cons (exec_rxDisarm s), execAll_cons hsend, execAll_singleton]
    refine (hlate _ ?_ ?_).trans ?_
    · exact hs
    · exact hcorr
    rcases eq_or_ne c' c with rfl | hne
    · simp [respond, disarm, emit, Response.toBytes, readyToken]
    · simp [hne, hne.symm, respond, disarm, emit, Response.toBytes, counted, f]

end Sys2Proof.Machine
end
